-- ==== Sys2Proof/Word.lean ====
section
/-! DEFINITION. The word types of the LMC. Every field, register and byte is unsigned
(00_scope R15), bit 0 is the least significant bit. -/

namespace Sys2Proof

/-- One byte of a buffer, a key or a frame. -/
abbrev Byte := BitVec 8

/-- One word of the register window; the bus is 32 bits wide (00_scope R10). -/
abbrev Word := BitVec 32

/-- A 128-bit register or AES block: the 16-byte string `X[0..16)` with byte `k` in bits
`[8k+7:8k]`, so that word `i` of the register is bits `[32i+31:32i]` (10_state R29). -/
abbrev Block := BitVec 128

/-- A byte offset into the 1 KiB register window (00_scope R10). -/
abbrev Offset := BitVec 10

end Sys2Proof
end

