-- ==== Sys2Proof/Config.lean ====
section
/-! DEFINITION. What the spec leaves open: the parameters a model takes as an argument
(00_scope R11 to R14) and the free values. An `opaque` constant here has no body, so nothing can
be proved of its value. -/

namespace Sys2Proof.Config

/-- `MIC_INPUT` (00_scope R13): what the data-frame MIC covers. -/
inductive MicInput where
  /-- the masked payload, as it stands on the wire (the default) -/
  | wire
  /-- the unmasked payload -/
  | plain
deriving DecidableEq, Repr

/-- `JA_UNWRAP` (00_scope R14): the AES direction JOIN_ACCEPT applies to each block. -/
inductive JaUnwrap where
  /-- the inverse cipher (the default) -/
  | dec
  /-- the forward cipher -/
  | enc
deriving DecidableEq, Repr

/-- The configuration parameters that the commands read. `maxpl` is `MAXPL` (00_scope R12) as a
table: a frame-format code not listed is unsupported (`none`), the first entry of a code counts,
and "Every value it returns is at most 242". Log 4, 5. -/
structure Params where
  maxpl : List (BitVec 8 × Fin 243)
  micInput : MicInput
  jaUnwrap : JaUnwrap
deriving DecidableEq, Repr

/-- The `MAXPL` table of the machine that `State.reset` describes: left OPEN (00_scope R12,
92 D14). Log 4. -/
opaque maxplTable : List (BitVec 8 × Fin 243)

/-- The configuration of the machine that `State.reset` describes: `MAXPL` open, the other two
parameters at the defaults that 00_scope R13 and R14 state. Log 4, 5. -/
def params : Params := { maxpl := maxplTable, micInput := .wire, jaUnwrap := .dec }

/-- Free value: `LAT - 1` of the command whose acceptance makes draw number `n`
(00_scope R11: "at least 1 and is otherwise OPEN"). Log 3. -/
opaque latencyBeyondFirst : Nat → Nat

/-- Free value: the byte at window offset `a` of IBUF or OBUF after the reset number `fill`, until
something writes it (10_state R40, 93 U1: "Each byte is an independent draw"). Log 6. -/
opaque unwrittenByte (fill a : Nat) : Byte

/-- Free value: what the read that makes draw number `n` returns, for an output-side register
while BUSY = 1 (10_state R49, 93 U2: "Every read is a fresh draw"). Log 7. -/
opaque busyRead (n : Nat) : Word

/-- Free value: `MAXPL` of the format of an active session whose format is unsupported. No run
reaches such a session (44_session_classify R176). Log 10. -/
opaque maxplOfUnsupported (fmt : BitVec 8) : Fin 243

end Sys2Proof.Config
end

