-- ==== Sys2Proof/Syntax.lean ====
section
/-! DEFINITION. The commands of the LMC (30_encoding R71), one constructor per row of the opcode
table, and the accesses a host makes (20_memory R50, 30_encoding R81). -/

namespace Sys2Proof

/-- A command. No command word has an operand field (30_encoding R70): the operands are the
registers that 30_encoding R77 names. -/
inductive Instr where
  /-- AES_ENC, 40_aes R98 -/
  | aesEnc
  /-- AES_DEC, 40_aes R99 -/
  | aesDec
  /-- MASK, 41_mask_mic R118 -/
  | mask
  /-- CMAC, 41_mask_mic R119 -/
  | cmac
  /-- DATA_MIC, 41_mask_mic R120 -/
  | dataMic
  /-- COMPOSE, 42_frame R135 -/
  | compose
  /-- DECODE, 42_frame R137 -/
  | decode
  /-- GET_ADDRESS, 42_frame R138 -/
  | getAddress
  /-- GET_HEADER, 42_frame R139 -/
  | getHeader
  /-- JOIN_REQ, 43_join R151 -/
  | joinReq
  /-- JOIN_ACCEPT, 43_join R156 -/
  | joinAccept
  /-- SESSION_LOAD, 44_session_classify R170 -/
  | sessionLoad
  /-- SESSION_CLEAR, 44_session_classify R171 -/
  | sessionClear
  /-- GET_DIRECTION, 44_session_classify R173 -/
  | getDirection
  /-- ACK_REQUEST, 44_session_classify R175 -/
  | ackRequest
  /-- MAX_PAYLOAD, 44_session_classify R176 -/
  | maxPayload
deriving DecidableEq, Repr

/-- Every command, in the table's order. -/
def Instr.all : List Instr :=
  [.aesEnc, .aesDec, .mask, .cmac, .dataMic, .compose, .decode, .getAddress, .getHeader,
   .joinReq, .joinAccept, .sessionLoad, .sessionClear, .getDirection, .ackRequest, .maxPayload]

/-- The input pins in one clock cycle (20_memory R50): the reset, and the host's access if
`sel` is set. -/
structure BusCycle where
  /-- synchronous reset, active high -/
  rst : Bool
  /-- the host starts an access this cycle -/
  sel : Bool
  /-- true: write; false: read -/
  we : Bool
  /-- byte offset into the window -/
  addr : Offset
  /-- 0 byte, 1 halfword, 2 word, 3 reserved -/
  size : BitVec 2
  wdata : Word
deriving DecidableEq, Repr

/-- What the host does next: drive the pins for one cycle, or run the loop `wait` of
30_encoding R81 (read STATUS, and again until the value read has BUSY = 0). Log 2. -/
inductive HostOp where
  | cycle (pins : BusCycle)
  | poll
deriving DecidableEq, Repr

end Sys2Proof
end

