-- ==== Sys2Proof/Machine/State.lean ====
section
/-! DEFINITION. The state of the LMC (10_state R20) and what the model adds to it, the reasons a
step can stop, and the state after reset (70_reset_and_hazards R211). -/

namespace Sys2Proof.Machine

/-- IBUF and OBUF: the bytes written since the last reset, as (window offset, byte) pairs with the
offsets strictly rising. Log 6. -/
abbrev Memory := List Host.Cell

/-- The answer on the output pins to an access (20_memory R50). Log 9. -/
structure BusResponse where
  /-- the data of a read; `none` for a write, for which the spec gives `rdata` no value -/
  rdata : Option Word
  /-- the error response -/
  err : Bool
deriving DecidableEq, Repr

/-- The state of the machine. Registers are 10_state R22's; the last block of fields is the
model's own (INVENTORY.md says which rule each stands for). -/
structure State where
  -- command and status
  pending : Word
  busy : Bool
  done : Bool
  result : BitVec 4
  werr : Bool
  doneIe : Bool
  -- arguments and results
  arg0 : Word
  arg1 : Word
  arg2 : Word
  res0 : Word
  res1 : Word
  res2 : Word
  key : Block
  blkIn : Block
  blkOut : Block
  -- session context
  sessFmt : BitVec 8
  sessValid : Bool
  sessNetid : BitVec 24
  sessDevaddr : Word
  sessNwkskey : Block
  sessAppskey : Block
  -- staging
  stgFmt : BitVec 8
  stgNetid : BitVec 24
  stgDevaddr : Word
  stgNwkskey : Block
  stgAppskey : Block
  -- join
  appeui : BitVec 64
  deveui : BitVec 64
  devnonce : BitVec 16
  appkey : Block
  jaAppnonce : BitVec 24
  jaInfo : Word
  jaCflist : Block
  -- IBUF and OBUF
  mem : Memory
  -- the output pins of the last cycle
  response : Option BusResponse
  -- the running command's cycles to its completion edge
  remaining : Nat
  -- the host agent and the open parameters
  host : List HostOp
  latencies : List Nat
  draws : Nat
  fill : Nat
  cfg : Config.Params
deriving DecidableEq, Repr

/-- Why the machine stops with a fault: never. The LMC has no trap and no fatal condition
(60_exceptions R190, R195); a failed command ends with a result code in a next state. Raised by
nobody; safe. Log 11. -/
inductive Fault where
deriving DecidableEq, Repr

/-- Why the model gives a step no meaning. -/
inductive Refusal where
  /-- The command has no meaning yet. Raised by no arm of `exec` (every command is modelled);
  safe: the model stops where the hardware goes on. -/
  | notModelled (mnemonic : String)
  /-- A byte, halfword, `size = 3` or misaligned access. Raised by the bus access of a cycle; safe:
  "A model refuses such an access" (20_memory R51). The arguments are the hardware's answer to it,
  `rdata = 0` and `err = 1`; no state changes. Log 8. -/
  | unsupportedAccess (rdata : Word) (err : Bool)
deriving DecidableEq, Repr

/-- The state after reset (70_reset_and_hazards R211): every register at the spec's value, nothing
written in IBUF and OBUF, no access under way. The model's own fields: log 3, 4, 5, 15. -/
def State.reset : State where
  pending := 0
  busy := false
  done := false
  result := 0
  werr := false
  doneIe := false
  arg0 := 0
  arg1 := 0
  arg2 := 0
  res0 := 0
  res1 := 0
  res2 := 0
  key := 0
  blkIn := 0
  blkOut := 0
  sessFmt := 0
  sessValid := false
  sessNetid := 0
  sessDevaddr := 0
  sessNwkskey := 0
  sessAppskey := 0
  stgFmt := 0
  stgNetid := 0
  stgDevaddr := 0
  stgNwkskey := 0
  stgAppskey := 0
  appeui := 0
  deveui := 0
  devnonce := 0
  appkey := 0
  jaAppnonce := 0
  jaInfo := 0
  jaCflist := 0
  mem := []
  response := none
  remaining := 0
  host := []
  latencies := []
  draws := 0
  fill := 0
  cfg := Config.params

end Sys2Proof.Machine
end

