-- ==== Sys2Proof/WellFormed.lean ====
section
/-! DEFINITION. Which terms of the syntax the hardware accepts. A command has no operand, so no
command is ill-formed (30_encoding R70); an access is accepted when it is an aligned word access
(20_memory R51). -/

namespace Sys2Proof

/-- Every command is well-formed: its word has no operand field (30_encoding R70). Log 19. -/
def Instr.wellFormed : Instr → Bool
  | .aesEnc | .aesDec | .mask | .cmac | .dataMic | .compose | .decode | .getAddress
  | .getHeader | .joinReq | .joinAccept | .sessionLoad | .sessionClear | .getDirection
  | .ackRequest | .maxPayload => true

/-- A word access at a multiple of 4: `size = 2` with `addr[1:0] = 00` (20_memory R51). -/
def BusCycle.wordAccess (p : BusCycle) : Bool :=
  p.size == 2#2 && p.addr.extractLsb' 0 2 == 0#2

/-- A cycle the model gives a meaning to: no access, a reset (which ignores the access,
70_reset_and_hazards R210), or an accepted access (20_memory R51). -/
def BusCycle.wellFormed (p : BusCycle) : Bool :=
  p.rst || !p.sel || p.wordAccess

/-- A host operation the model gives a meaning to. The poll is a word read of STATUS. -/
def HostOp.wellFormed : HostOp → Bool
  | .cycle p => p.wellFormed
  | .poll => true

end Sys2Proof
end

