-- ==== Sys2Proof/Machine/Ops.lean ====
section
/-! DEFINITION. The shared operations: byte strings, the words of a wide register, IBUF and OBUF,
the free draws, and the completion of a command (the one way a command ends, with an error or
without). -/

namespace Sys2Proof.Machine

/-! ### Byte strings (00_scope R16) -/

/-- `le_n(v)`: the `n`-byte little-endian encoding of `v` (00_scope R16). -/
def le : Nat → Nat → List Byte
  | 0, _ => []
  | n + 1, v => BitVec.ofNat 8 v :: le n (v / 256)

/-- `from_le(b)`, the inverse of `le_n` (00_scope R16). -/
def fromLE : List Byte → Nat
  | [] => 0
  | b :: bs => b.toNat + 256 * fromLE bs

/-- `zeros(n)` (00_scope R16). -/
def zeros (n : Nat) : List Byte := List.replicate n 0

/-- `b[i..j)` (00_scope R16). -/
def slice (b : List Byte) (i j : Nat) : List Byte := (b.drop i).take (j - i)

/-- `b[i]`. -/
def byteAt (b : List Byte) (i : Nat) : Byte := b.getD i 0

/-- `xor(a, b)` (00_scope R16); where one string is longer, only the leading bytes count. -/
def xorBytes (a b : List Byte) : List Byte := List.zipWith (· ^^^ ·) a b

/-- The 16 bytes of a 128-bit register, byte 0 first (10_state R29). -/
def blockBytes (x : Block) : List Byte := le 16 x.toNat

/-- The 128-bit register that holds a string of 16 bytes (10_state R29). -/
def bytesBlock (b : List Byte) : Block := BitVec.ofNat 128 (fromLE b)

/-! ### Words of a register wider than the bus (10_state R29, R36) -/

/-- Word `i` of a wide register: its bits `[32i+31:32i]`. -/
def getWord {w : Nat} (x : BitVec w) (i : Nat) : Word := x.extractLsb' (32 * i) 32

/-- A wide register with its word `i` replaced, the other words kept (20_memory R53). -/
def setWord {w : Nat} (x : BitVec w) (i : Nat) (v : Word) : BitVec w :=
  (x &&& ~~~((BitVec.allOnes 32).setWidth w <<< (32 * i))) ||| (v.setWidth w <<< (32 * i))

/-! ### IBUF and OBUF (10_state R40, R41) -/

/-- Window offset of IBUF (10_state R22). -/
def ibufBase : Nat := 0x100

/-- Window offset of OBUF (10_state R22). -/
def obufBase : Nat := 0x200

/-- `BUF_SIZE` (00_scope R10). -/
def bufSize : Nat := 256

/-- The byte written last at an offset, or `none` if nothing has written it since reset. -/
def Memory.find : Memory → Nat → Option Byte
  | [], _ => none
  | (x, b) :: m, a => if x = a then some b else Memory.find m a

/-- Write one byte. An entry once listed stays listed: "not written" is no byte, so no written
byte equals what an unlisted offset holds. Log 6. -/
def Memory.write : Memory → Nat → Byte → Memory
  | [], a, b => [(a, b)]
  | (x, c) :: m, a, b =>
    if a < x then (a, b) :: (x, c) :: m
    else if a = x then (a, b) :: m
    else (x, c) :: Memory.write m a b

/-- Write a byte string at consecutive offsets. -/
def Memory.writeBytes : Memory → Nat → List Byte → Memory
  | m, _, [] => m
  | m, a, b :: bs => Memory.writeBytes (m.write a b) (a + 1) bs

/-- Offsets strictly rising from `lo` on, all below the end of OBUF. -/
def Memory.sortedFrom : Nat → Memory → Bool
  | _, [] => true
  | lo, (x, _) :: m => decide (lo ≤ x) && decide (x < obufBase + bufSize) && Memory.sortedFrom (x + 1) m

/-- The canonical form: every offset in IBUF or OBUF, strictly rising. -/
def Memory.wf (m : Memory) : Bool := Memory.sortedFrom ibufBase m

/-- The byte of IBUF or OBUF at a window offset: the byte written last, or, if none has been
since reset, that offset's free value (10_state R40). Log 6. -/
def byteOf (s : State) (a : Nat) : Byte :=
  (s.mem.find a).getD (Config.unwrittenByte s.fill a)

/-- The `n` bytes from a window offset on. -/
def bytesFrom (s : State) : Nat → Nat → List Byte
  | _, 0 => []
  | a, n + 1 => byteOf s a :: bytesFrom s (a + 1) n

/-- `IBUF[i..j)`. -/
def ibuf (s : State) (i j : Nat) : List Byte := bytesFrom s (ibufBase + i) (j - i)

/-- `OBUF[0..len(b)) <- b`; the bytes from `len(b)` on are kept (10_state R41). -/
def storeObuf (b : List Byte) (s : State) : State :=
  { s with mem := s.mem.writeBytes obufBase b }

/-! ### Free draws and parameters -/

/-- The value of a read of an output-side register while BUSY = 1: a fresh free value
(10_state R49). Log 7. -/
def drawBusyRead (s : State) : Word × State :=
  (Config.busyRead s.draws, { s with draws := s.draws + 1 })

/-- `LAT` of the command being accepted, at least 1 (00_scope R11): from the argument list, or a
free value. Log 3. -/
def nextLatency (s : State) : Nat :=
  match s.latencies with
  | n :: _ => n + 1
  | [] => Config.latencyBeyondFirst s.draws + 1

/-- `MAXPL` (00_scope R12): `none` for an unsupported format (44_session_classify R177). Log 4. -/
def maxplOf (p : Config.Params) (fmt : BitVec 8) : Option Nat :=
  (p.maxpl.lookup fmt).map (·.val)

/-- `MAXPL(SESS_CFG.FMT)` of an active session, whose format is supported "by construction"
(44_session_classify R176). In a state no run reaches, where it is not, a free value. Log 10. -/
def sessionMaxpl (s : State) : Nat :=
  (maxplOf s.cfg s.sessFmt).getD (Config.maxplOfUnsupported s.sessFmt).val

/-! ### Completion (60_exceptions R190, R192) -/

/-- The result codes (60_exceptions R190). -/
inductive ResultCode where
  | noError
  | formatError
  | micError
  | lengthError
  | headerError
  | cmdError
deriving DecidableEq, Repr

/-- The number of a result code in STATUS.RESULT; 5 to 14 are reserved (60_exceptions R190). -/
def resultBits : ResultCode → BitVec 4
  | .noError => 0
  | .formatError => 1
  | .micError => 2
  | .lengthError => 3
  | .headerError => 4
  | .cmdError => 15

/-- The completion step on STATUS (60_exceptions R192); the outputs, if any, are already in `s`. -/
def complete (code : ResultCode) (s : State) : State :=
  { s with result := resultBits code, busy := false, done := true }

/-- `finish()`: the outputs, which stand in `s`, are committed with NO_ERROR (60_exceptions R192). -/
def finish (s : State) : State := complete .noError s

/-- `raise Result(CODE)`: the command ends with a code and none of its outputs is committed; this
is all the exception entry the LMC has (60_exceptions R192, R195). `s` is the state before the
command's outputs. -/
def raiseResult (code : ResultCode) (s : State) : State := complete code s

/-- Start of a command: what an accepted write of `v` to CMD does (10_state R47). The command's
LAT is taken from the list, or drawn (log 3). -/
def acceptCommand (v : Word) (s : State) : State :=
  { s with
    pending := v
    busy := true
    done := false
    remaining := nextLatency s
    latencies := s.latencies.tail
    draws := if s.latencies.isEmpty then s.draws + 1 else s.draws }

/-- One cycle with `rst = 1` (70_reset_and_hazards R210, R212): the state of R211 whatever was
running. The host, the parameters and the counters of free draws are not the LMC's registers and
go on; the buffers' unspecified contents are drawn anew. Log 14. -/
def resetCycle (s : State) : State :=
  { State.reset with
    host := s.host
    latencies := s.latencies
    draws := s.draws
    fill := s.fill + 1
    cfg := s.cfg }

end Sys2Proof.Machine
end

