-- ==== Sys2Proof/Machine/Aes.lean ====
section
/-! DEFINITION. The AES-128 block cipher (40_aes R90 to R97). The state is its four columns, each
a word of four bytes: column `c` is `(s[0][c], s[1][c], s[2][c], s[3][c])` (R90). -/

namespace Sys2Proof.Machine

/-- A word of the key schedule, and a column of the state (40_aes R90). -/
structure AesWord where
  b0 : Byte
  b1 : Byte
  b2 : Byte
  b3 : Byte
deriving DecidableEq, Repr

/-- The 4x4 byte array, column by column; also a round key (40_aes R90, R94). -/
structure AesState where
  c0 : AesWord
  c1 : AesWord
  c2 : AesWord
  c3 : AesWord
deriving DecidableEq, Repr

/-- `xtime(b)` (40_aes R91): 0x1B is 0x11B without the bit that leaves the byte. -/
def xtime (b : Byte) : Byte := if b.getLsbD 7 then (b <<< 1) ^^^ 0x1B else b <<< 1

/-- `xtime^i(a)` (40_aes R91). -/
def xtimePow : Nat → Byte → Byte
  | 0, a => a
  | n + 1, a => xtime (xtimePow n a)

/-- `a • b` (40_aes R91): the XOR of `xtime^i(a)` over every bit `i` set in `b`. -/
def gfMul (a b : Byte) : Byte :=
  [0, 1, 2, 3, 4, 5, 6, 7].foldl
    (fun acc i => if b.getLsbD i then acc ^^^ xtimePow i a else acc) 0

/-- The S-box table (40_aes R92): row the high nibble, column the low nibble. -/
def sboxRows : List (List Byte) :=
  [[0x63, 0x7C, 0x77, 0x7B, 0xF2, 0x6B, 0x6F, 0xC5, 0x30, 0x01, 0x67, 0x2B, 0xFE, 0xD7, 0xAB, 0x76],
   [0xCA, 0x82, 0xC9, 0x7D, 0xFA, 0x59, 0x47, 0xF0, 0xAD, 0xD4, 0xA2, 0xAF, 0x9C, 0xA4, 0x72, 0xC0],
   [0xB7, 0xFD, 0x93, 0x26, 0x36, 0x3F, 0xF7, 0xCC, 0x34, 0xA5, 0xE5, 0xF1, 0x71, 0xD8, 0x31, 0x15],
   [0x04, 0xC7, 0x23, 0xC3, 0x18, 0x96, 0x05, 0x9A, 0x07, 0x12, 0x80, 0xE2, 0xEB, 0x27, 0xB2, 0x75],
   [0x09, 0x83, 0x2C, 0x1A, 0x1B, 0x6E, 0x5A, 0xA0, 0x52, 0x3B, 0xD6, 0xB3, 0x29, 0xE3, 0x2F, 0x84],
   [0x53, 0xD1, 0x00, 0xED, 0x20, 0xFC, 0xB1, 0x5B, 0x6A, 0xCB, 0xBE, 0x39, 0x4A, 0x4C, 0x58, 0xCF],
   [0xD0, 0xEF, 0xAA, 0xFB, 0x43, 0x4D, 0x33, 0x85, 0x45, 0xF9, 0x02, 0x7F, 0x50, 0x3C, 0x9F, 0xA8],
   [0x51, 0xA3, 0x40, 0x8F, 0x92, 0x9D, 0x38, 0xF5, 0xBC, 0xB6, 0xDA, 0x21, 0x10, 0xFF, 0xF3, 0xD2],
   [0xCD, 0x0C, 0x13, 0xEC, 0x5F, 0x97, 0x44, 0x17, 0xC4, 0xA7, 0x7E, 0x3D, 0x64, 0x5D, 0x19, 0x73],
   [0x60, 0x81, 0x4F, 0xDC, 0x22, 0x2A, 0x90, 0x88, 0x46, 0xEE, 0xB8, 0x14, 0xDE, 0x5E, 0x0B, 0xDB],
   [0xE0, 0x32, 0x3A, 0x0A, 0x49, 0x06, 0x24, 0x5C, 0xC2, 0xD3, 0xAC, 0x62, 0x91, 0x95, 0xE4, 0x79],
   [0xE7, 0xC8, 0x37, 0x6D, 0x8D, 0xD5, 0x4E, 0xA9, 0x6C, 0x56, 0xF4, 0xEA, 0x65, 0x7A, 0xAE, 0x08],
   [0xBA, 0x78, 0x25, 0x2E, 0x1C, 0xA6, 0xB4, 0xC6, 0xE8, 0xDD, 0x74, 0x1F, 0x4B, 0xBD, 0x8B, 0x8A],
   [0x70, 0x3E, 0xB5, 0x66, 0x48, 0x03, 0xF6, 0x0E, 0x61, 0x35, 0x57, 0xB9, 0x86, 0xC1, 0x1D, 0x9E],
   [0xE1, 0xF8, 0x98, 0x11, 0x69, 0xD9, 0x8E, 0x94, 0x9B, 0x1E, 0x87, 0xE9, 0xCE, 0x55, 0x28, 0xDF],
   [0x8C, 0xA1, 0x89, 0x0D, 0xBF, 0xE6, 0x42, 0x68, 0x41, 0x99, 0x2D, 0x0F, 0xB0, 0x54, 0xBB, 0x16]]

/-- The inverse S-box table (40_aes R93). -/
def invSboxRows : List (List Byte) :=
  [[0x52, 0x09, 0x6A, 0xD5, 0x30, 0x36, 0xA5, 0x38, 0xBF, 0x40, 0xA3, 0x9E, 0x81, 0xF3, 0xD7, 0xFB],
   [0x7C, 0xE3, 0x39, 0x82, 0x9B, 0x2F, 0xFF, 0x87, 0x34, 0x8E, 0x43, 0x44, 0xC4, 0xDE, 0xE9, 0xCB],
   [0x54, 0x7B, 0x94, 0x32, 0xA6, 0xC2, 0x23, 0x3D, 0xEE, 0x4C, 0x95, 0x0B, 0x42, 0xFA, 0xC3, 0x4E],
   [0x08, 0x2E, 0xA1, 0x66, 0x28, 0xD9, 0x24, 0xB2, 0x76, 0x5B, 0xA2, 0x49, 0x6D, 0x8B, 0xD1, 0x25],
   [0x72, 0xF8, 0xF6, 0x64, 0x86, 0x68, 0x98, 0x16, 0xD4, 0xA4, 0x5C, 0xCC, 0x5D, 0x65, 0xB6, 0x92],
   [0x6C, 0x70, 0x48, 0x50, 0xFD, 0xED, 0xB9, 0xDA, 0x5E, 0x15, 0x46, 0x57, 0xA7, 0x8D, 0x9D, 0x84],
   [0x90, 0xD8, 0xAB, 0x00, 0x8C, 0xBC, 0xD3, 0x0A, 0xF7, 0xE4, 0x58, 0x05, 0xB8, 0xB3, 0x45, 0x06],
   [0xD0, 0x2C, 0x1E, 0x8F, 0xCA, 0x3F, 0x0F, 0x02, 0xC1, 0xAF, 0xBD, 0x03, 0x01, 0x13, 0x8A, 0x6B],
   [0x3A, 0x91, 0x11, 0x41, 0x4F, 0x67, 0xDC, 0xEA, 0x97, 0xF2, 0xCF, 0xCE, 0xF0, 0xB4, 0xE6, 0x73],
   [0x96, 0xAC, 0x74, 0x22, 0xE7, 0xAD, 0x35, 0x85, 0xE2, 0xF9, 0x37, 0xE8, 0x1C, 0x75, 0xDF, 0x6E],
   [0x47, 0xF1, 0x1A, 0x71, 0x1D, 0x29, 0xC5, 0x89, 0x6F, 0xB7, 0x62, 0x0E, 0xAA, 0x18, 0xBE, 0x1B],
   [0xFC, 0x56, 0x3E, 0x4B, 0xC6, 0xD2, 0x79, 0x20, 0x9A, 0xDB, 0xC0, 0xFE, 0x78, 0xCD, 0x5A, 0xF4],
   [0x1F, 0xDD, 0xA8, 0x33, 0x88, 0x07, 0xC7, 0x31, 0xB1, 0x12, 0x10, 0x59, 0x27, 0x80, 0xEC, 0x5F],
   [0x60, 0x51, 0x7F, 0xA9, 0x19, 0xB5, 0x4A, 0x0D, 0x2D, 0xE5, 0x7A, 0x9F, 0x93, 0xC9, 0x9C, 0xEF],
   [0xA0, 0xE0, 0x3B, 0x4D, 0xAE, 0x2A, 0xF5, 0xB0, 0xC8, 0xEB, 0xBB, 0x3C, 0x83, 0x53, 0x99, 0x61],
   [0x17, 0x2B, 0x04, 0x7E, 0xBA, 0x77, 0xD6, 0x26, 0xE1, 0x69, 0x14, 0x63, 0x55, 0x21, 0x0C, 0x7D]]

/-- The entry of a 16 by 16 table for the byte `x`. -/
def tableAt (t : List (List Byte)) (x : Byte) : Byte :=
  (t.getD (x.toNat / 16) []).getD (x.toNat % 16) 0

/-- `SBOX[x]` (40_aes R92). -/
def sbox (x : Byte) : Byte := tableAt sboxRows x

/-- `INV_SBOX[x]` (40_aes R93). -/
def invSbox (x : Byte) : Byte := tableAt invSboxRows x

/-- A function on bytes, applied to each byte of a word. -/
def AesWord.map (f : Byte → Byte) (w : AesWord) : AesWord := ⟨f w.b0, f w.b1, f w.b2, f w.b3⟩

/-- The XOR of two words. -/
def AesWord.xor (v w : AesWord) : AesWord :=
  ⟨v.b0 ^^^ w.b0, v.b1 ^^^ w.b1, v.b2 ^^^ w.b2, v.b3 ^^^ w.b3⟩

/-- A function on words, applied to each column. -/
def AesState.map (f : AesWord → AesWord) (s : AesState) : AesState :=
  ⟨f s.c0, f s.c1, f s.c2, f s.c3⟩

/-! ### Key expansion (40_aes R94) -/

/-- `RotWord`: (a0,a1,a2,a3) to (a1,a2,a3,a0). -/
def rotWord (w : AesWord) : AesWord := ⟨w.b1, w.b2, w.b3, w.b0⟩

/-- `SubWord`: SBOX applied to each byte. -/
def subWord (w : AesWord) : AesWord := w.map sbox

/-- `Rcon[n]` for `n` in 1..10. -/
def rcon (n : Nat) : Byte :=
  [0x00, 0x01, 0x02, 0x04, 0x08, 0x10, 0x20, 0x40, 0x80, 0x1B, 0x36].getD n 0

/-- `n` words of the schedule from `w[i]` on, from the four words before: `w[i-4]`, `w[i-3]`,
`w[i-2]`, `w[i-1]`. -/
def expandFrom : Nat → Nat → AesWord → AesWord → AesWord → AesWord → List AesWord
  | 0, _, _, _, _, _ => []
  | n + 1, i, w4, w3, w2, w1 =>
    let t := if i % 4 = 0 then (subWord (rotWord w1)).xor ⟨rcon (i / 4), 0, 0, 0⟩ else w1
    let w := w4.xor t
    w :: expandFrom n (i + 1) w3 w2 w1 w

/-- Loading: `s[r][c] = in[r + 4c]` (40_aes R90). -/
def loadBlock (x : Block) : AesState :=
  let b := fun k : Nat => x.extractLsb' (8 * k) 8
  ⟨⟨b 0, b 1, b 2, b 3⟩, ⟨b 4, b 5, b 6, b 7⟩, ⟨b 8, b 9, b 10, b 11⟩, ⟨b 12, b 13, b 14, b 15⟩⟩

/-- The bytes of a word as a bus word, byte 0 lowest. -/
def AesWord.bits (w : AesWord) : Word := w.b3 ++ w.b2 ++ w.b1 ++ w.b0

/-- Unloading: `out[r + 4c] = s[r][c]` (40_aes R90). -/
def unloadBlock (s : AesState) : Block := s.c3.bits ++ s.c2.bits ++ s.c1.bits ++ s.c0.bits

/-- `KeyExpansion(key)`: the 44 words `w[0..44)` (40_aes R94). -/
def keyExpansion (key : Block) : List AesWord :=
  let k := loadBlock key
  k.c0 :: k.c1 :: k.c2 :: k.c3 :: expandFrom 40 4 k.c0 k.c1 k.c2 k.c3

/-- Round key `rk(n)`: the words `w[4n .. 4n+3]` (40_aes R94). -/
def roundKey (w : List AesWord) (n : Nat) : AesState :=
  let word := fun i : Nat => w.getD i ⟨0, 0, 0, 0⟩
  ⟨word (4 * n), word (4 * n + 1), word (4 * n + 2), word (4 * n + 3)⟩

/-! ### Round transformations (40_aes R95) -/

/-- `SubBytes`. -/
def subBytes (s : AesState) : AesState := s.map (AesWord.map sbox)

/-- `InvSubBytes`. -/
def invSubBytes (s : AesState) : AesState := s.map (AesWord.map invSbox)

/-- `ShiftRows`: `s[r][c] <- s[r][(c + r) mod 4]`. -/
def shiftRows (s : AesState) : AesState :=
  ⟨⟨s.c0.b0, s.c1.b1, s.c2.b2, s.c3.b3⟩,
   ⟨s.c1.b0, s.c2.b1, s.c3.b2, s.c0.b3⟩,
   ⟨s.c2.b0, s.c3.b1, s.c0.b2, s.c1.b3⟩,
   ⟨s.c3.b0, s.c0.b1, s.c1.b2, s.c2.b3⟩⟩

/-- `InvShiftRows`: `s[r][c] <- s[r][(c - r) mod 4]`. -/
def invShiftRows (s : AesState) : AesState :=
  ⟨⟨s.c0.b0, s.c3.b1, s.c2.b2, s.c1.b3⟩,
   ⟨s.c1.b0, s.c0.b1, s.c3.b2, s.c2.b3⟩,
   ⟨s.c2.b0, s.c1.b1, s.c0.b2, s.c3.b3⟩,
   ⟨s.c3.b0, s.c2.b1, s.c1.b2, s.c0.b3⟩⟩

/-- One byte of a mixed column: `k0•a xor k1•b xor k2•c xor k3•d`. -/
def mixByte (k0 k1 k2 k3 a b c d : Byte) : Byte :=
  gfMul k0 a ^^^ gfMul k1 b ^^^ gfMul k2 c ^^^ gfMul k3 d

/-- A column times the circulant matrix whose first row is `k0 k1 k2 k3`: row `r` reads `a_r`,
`a_(r+1)`, `a_(r+2)`, `a_(r+3)`, indices mod 4. -/
def mixWord (k0 k1 k2 k3 : Byte) (a : AesWord) : AesWord :=
  ⟨mixByte k0 k1 k2 k3 a.b0 a.b1 a.b2 a.b3,
   mixByte k0 k1 k2 k3 a.b1 a.b2 a.b3 a.b0,
   mixByte k0 k1 k2 k3 a.b2 a.b3 a.b0 a.b1,
   mixByte k0 k1 k2 k3 a.b3 a.b0 a.b1 a.b2⟩

/-- `MixColumns`. -/
def mixColumns (s : AesState) : AesState := s.map (mixWord 0x02 0x03 0x01 0x01)

/-- `InvMixColumns`. -/
def invMixColumns (s : AesState) : AesState := s.map (mixWord 0x0E 0x0B 0x0D 0x09)

/-- `AddRoundKey`: word `w[4n+c]` is added to column `c`. -/
def addRoundKey (k s : AesState) : AesState :=
  ⟨s.c0.xor k.c0, s.c1.xor k.c1, s.c2.xor k.c2, s.c3.xor k.c3⟩

/-! ### The two ciphers (40_aes R96, R97) -/

/-- `AddRoundKey(0)`, then the rounds 1 to `n` of the forward cipher. -/
def encRounds (w : List AesWord) : Nat → AesState → AesState
  | 0, s => addRoundKey (roundKey w 0) s
  | n + 1, s =>
    addRoundKey (roundKey w (n + 1)) (mixColumns (shiftRows (subBytes (encRounds w n s))))

/-- `AES_Enc(key, in)`, the forward cipher (40_aes R96). -/
def aesEncrypt (key x : Block) : Block :=
  let w := keyExpansion key
  unloadBlock (addRoundKey (roundKey w 10) (shiftRows (subBytes (encRounds w 9 (loadBlock x)))))

/-- The rounds `n` down to 1 of the inverse cipher, then its last round, with `rk(0)`. -/
def decRounds (w : List AesWord) : Nat → AesState → AesState
  | 0, s => addRoundKey (roundKey w 0) (invSubBytes (invShiftRows s))
  | n + 1, s =>
    decRounds w n
      (invMixColumns (addRoundKey (roundKey w (n + 1)) (invSubBytes (invShiftRows s))))

/-- `AES_Dec(key, in)`, the inverse cipher (40_aes R97). -/
def aesDecrypt (key x : Block) : Block :=
  let w := keyExpansion key
  unloadBlock (decRounds w 9 (addRoundKey (roundKey w 10) (loadBlock x)))

end Sys2Proof.Machine
end

