-- ==== Sys2Proof/Machine/Cipher.lean ====
section
/-! DEFINITION. The cipher commands AES_ENC and AES_DEC (40_aes R98 to R100). -/

namespace Sys2Proof.Machine

/-- AES_ENC (40_aes R98): `BLK_OUT <- AES_Enc(KEY, BLK_IN)`; no errors. -/
def execAesEnc (s : State) : Host.Outcome State Fault Refusal :=
  .next (finish { s with blkOut := aesEncrypt s.key s.blkIn })

/-- AES_DEC (40_aes R99): `BLK_OUT <- AES_Dec(KEY, BLK_IN)`; no errors. -/
def execAesDec (s : State) : Host.Outcome State Fault Refusal :=
  .next (finish { s with blkOut := aesDecrypt s.key s.blkIn })

end Sys2Proof.Machine
end

