-- ==== Sys2Proof/Machine/Operands.lean ====
section
/-! DEFINITION. The operand fields of the argument registers (30_encoding R72 to R74), the
message-type tables (30_encoding R86, 44_session_classify R172, R174) and the header bytes of a
frame (30_encoding R84, R85). Reserved bits are ignored; every field is unsigned (R78). -/

namespace Sys2Proof.Machine

/-- ARG0.N, bits [8:0]: an index or length (30_encoding R72). -/
def arg0N (s : State) : Nat := (s.arg0.extractLsb' 0 9).toNat

/-- ARG0.DIR, bit 12: 0 uplink, 1 downlink (30_encoding R72). -/
def arg0Dir (s : State) : BitVec 1 := s.arg0.extractLsb' 12 1

/-- ARG0.FCNT, bits [31:16]: the 16-bit frame counter (30_encoding R72). -/
def arg0Fcnt (s : State) : BitVec 16 := s.arg0.extractLsb' 16 16

/-- ARG1.FOPTS_LEN, bits [4:0] (30_encoding R73). -/
def arg1FoptsLen (s : State) : Nat := (s.arg1.extractLsb' 0 5).toNat

/-- ARG1.MTYPE, bits [10:8] (30_encoding R73). -/
def arg1Mtype (s : State) : BitVec 3 := s.arg1.extractLsb' 8 3

/-- ARG1.FCTRL_HI, bits [15:12] (30_encoding R73). -/
def arg1FctrlHi (s : State) : BitVec 4 := s.arg1.extractLsb' 12 4

/-- ARG1.PORT, bits [23:16] (30_encoding R73). -/
def arg1Port (s : State) : Byte := s.arg1.extractLsb' 16 8

/-- ARG2 as DEVADDR (30_encoding R74). -/
def arg2Devaddr (s : State) : Word := s.arg2

/-- The data-frame types: "exactly for `t` in {2, 3, 4, 5}" (30_encoding R86). -/
def isData (t : BitVec 3) : Bool := t == 2 || t == 3 || t == 4 || t == 5

/-- The direction table, 0 uplink and 1 downlink, for MTYPE 0 to 7 (44_session_classify R172). -/
def dirOf (t : BitVec 3) : BitVec 1 := [0, 1, 0, 1, 0, 1, 0, 0].getD t.toNat 0

/-- The acknowledgement table, 1 `WITH_ACK`, for MTYPE 0 to 7 (44_session_classify R174). -/
def ackOf (t : BitVec 3) : BitVec 1 := [0, 0, 0, 0, 1, 1, 0, 0].getD t.toNat 0

/-- The MHDR that COMPOSE and JOIN_REQ write: `MTYPE << 5`, RFU and Major 0 (30_encoding R84). -/
def mhdrByte (t : BitVec 3) : Byte := t ++ (0#5 : BitVec 5)

/-- MTYPE of a received MHDR, its bits [7:5] (30_encoding R84). -/
def mhdrMtype (b : Byte) : BitVec 3 := b.extractLsb' 5 3

/-- The FCtrl that COMPOSE writes: FCTRL_HI in [7:4], FOptsLen in [3:0] (30_encoding R85). -/
def fctrlByte (hi : BitVec 4) (foptsLen : Nat) : Byte := hi ++ BitVec.ofNat 4 foptsLen

/-- FOptsLen of a received FCtrl, bits [3:0] (30_encoding R85). -/
def fctrlFoptsLen (b : Byte) : Nat := (b.extractLsb' 0 4).toNat

/-- FCtrl[7:4] of a received FCtrl (30_encoding R85). -/
def fctrlHi (b : Byte) : BitVec 4 := b.extractLsb' 4 4

end Sys2Proof.Machine
end

