-- ==== Sys2Proof/Machine/Classify.lean ====
section
/-! DEFINITION. The classifier commands GET_DIRECTION, ACK_REQUEST and MAX_PAYLOAD
(44_session_classify R173, R175, R176). -/

namespace Sys2Proof.Machine

/-- GET_DIRECTION (44_session_classify R173): `RES0 <- dir_of(ARG1.MTYPE)`; no errors. -/
def execGetDirection (s : State) : Host.Outcome State Fault Refusal :=
  .next (finish { s with res0 := (dirOf (arg1Mtype s)).setWidth 32 })

/-- ACK_REQUEST (44_session_classify R175): `RES0 <- ack_of(ARG1.MTYPE)`; no errors. -/
def execAckRequest (s : State) : Host.Outcome State Fault Refusal :=
  .next (finish { s with res0 := (ackOf (arg1Mtype s)).setWidth 32 })

/-- MAX_PAYLOAD (44_session_classify R176): `RES0 <- MAXPL(SESS_CFG.FMT)`; FORMAT_ERROR with no
session. -/
def execMaxPayload (s : State) : Host.Outcome State Fault Refusal :=
  .next (
    if s.sessValid = false then raiseResult .formatError s
    else finish { s with res0 := BitVec.ofNat 32 (sessionMaxpl s) })

end Sys2Proof.Machine
end

