-- ==== Sys2Proof/Machine/Mac.lean ====
section
/-! DEFINITION. The counter blocks, AES-CMAC, the data-frame MIC and payload masking
(41_mask_mic R110 to R117). -/

namespace Sys2Proof.Machine

/-- The fields A-block and B0 block share: 4 zero bytes, direction, `le_4` of the address, `le_4` of
the zero-extended counter, 0x00 (41_mask_mic R110 to R112). -/
def counterMiddle (d : BitVec 1) (a : Word) (f : BitVec 16) : List Byte :=
  zeros 4 ++ [d.setWidth 8] ++ le 4 a.toNat ++ le 4 f.toNat ++ [0x00]

/-- The A-block `A(d, a, f, i)`, `i` in 0..255 (41_mask_mic R111). -/
def aBlock (d : BitVec 1) (a : Word) (f : BitVec 16) (i : Nat) : List Byte :=
  [0x01] ++ counterMiddle d a f ++ [BitVec.ofNat 8 i]

/-- The B0 block `B0(d, a, f, n)`, `n` in 0..255 (41_mask_mic R112). -/
def b0Block (d : BitVec 1) (a : Word) (f : BitVec 16) (n : Nat) : List Byte :=
  [0x49] ++ counterMiddle d a f ++ [BitVec.ofNat 8 n]

/-- A block with its bytes in reverse: a 128-bit big-endian integer, byte 0 most significant, from
a block and back. -/
def reverseBytes (x : Block) : Block := bytesBlock (blockBytes x).reverse

/-- `(L << 1) mod 2^128`, with 0x87 into byte 15 if the most significant bit was 1, on big-endian
integers: byte 15 is the least significant (41_mask_mic R113). -/
def doubleBE (x : BitVec 128) : BitVec 128 :=
  if x.getLsbD 127 then (x <<< 1) ^^^ 0x87 else x <<< 1

/-- The CMAC subkeys `(K1, K2)` as blocks (41_mask_mic R113). -/
def cmacSubkeys (key : Block) : Block × Block :=
  let l := reverseBytes (aesEncrypt key 0)
  (reverseBytes (doubleBE l), reverseBytes (doubleBE (doubleBE l)))

/-- `CMAC(K, M)` (41_mask_mic R114). -/
def cmac (key : Block) (m : List Byte) : Block :=
  let n := if m.length = 0 then 1 else (m.length + 15) / 16
  let isComplete := m.length ≠ 0 ∧ m.length % 16 = 0
  let rest := slice m (16 * (n - 1)) m.length
  let last :=
    if isComplete then bytesBlock rest ^^^ (cmacSubkeys key).1
    else bytesBlock (rest ++ [0x80] ++ zeros (15 - rest.length)) ^^^ (cmacSubkeys key).2
  let x := (List.range (n - 1)).foldl
    (fun x i => aesEncrypt key (x ^^^ bytesBlock (slice m (16 * i) (16 * i + 16)))) 0
  aesEncrypt key (x ^^^ last)

/-- The MIC of a message: `CMAC(K, M)[0..4)` (41_mask_mic R114). -/
def cmacMic (key : Block) (m : List Byte) : List Byte := (blockBytes (cmac key m)).take 4

/-- `DataMIC(K, d, a, f, msg)`, for a message of at most 255 bytes (41_mask_mic R115). -/
def dataMic (key : Block) (d : BitVec 1) (a : Word) (f : BitVec 16) (msg : List Byte) : List Byte :=
  cmacMic key (b0Block d a f msg.length ++ msg)

/-- `mic_word(t)` (41_mask_mic R116). -/
def micWord (t : List Byte) : Word := BitVec.ofNat 32 (fromLE t)

/-- The keystream block `AES_Enc(K, A(d, a, f, i))` (41_mask_mic R117, R118). -/
def keystream (key : Block) (d : BitVec 1) (a : Word) (f : BitVec 16) (i : Nat) : Block :=
  aesEncrypt key (bytesBlock (aBlock d a f i))

/-- `Mask(K, d, a, f, P)` (41_mask_mic R117): bytes `16(i-1) .. 16i` of `P` with keystream block
`i`, from `i = 1` on; the last block uses only its leading bytes. -/
def maskBytes (key : Block) (d : BitVec 1) (a : Word) (f : BitVec 16) (p : List Byte) : List Byte :=
  (List.range ((p.length + 15) / 16)).flatMap fun j =>
    xorBytes (slice p (16 * j) (16 * j + 16)) (blockBytes (keystream key d a f (j + 1)))

end Sys2Proof.Machine
end

