-- ==== Sys2Proof/Machine/Frame.lean ====
section
/-! DEFINITION. The frame serializer: COMPOSE, DECODE, GET_ADDRESS, GET_HEADER
(42_frame R130 to R143). -/

namespace Sys2Proof.Machine

/-- `MAX_FRAME_LEN` (00_scope R10, 42_frame R131). -/
def maxFrameLen : Nat := 255

/-- The masking key is chosen by port: port 0 selects SESS_NWKSKEY, any other SESS_APPSKEY
(42_frame R133). -/
def maskKey (s : State) (port : Byte) : Block := if port = 0 then s.sessNwkskey else s.sessAppskey

/-- The MIC message of a data frame from its header (MHDR to PORT), masked payload and plaintext
payload, as MIC_INPUT says (42_frame R141). -/
def micMessage (m : Config.MicInput) (hdr masked plain : List Byte) : List Byte :=
  match m with
  | .wire => hdr ++ masked
  | .plain => hdr ++ plain

/-- `L` of a composed frame: 12 bytes and the options, and PORT with the payload if there is one
(42_frame R130, R134, R135). -/
def composeLength (fl pl : Nat) : Nat := 12 + fl + (if 0 < pl then 1 + pl else 0)

/-- The frame COMPOSE builds once its checks have passed (42_frame R135): header, options, PORT and
masked payload if the payload is not empty, MIC. The direction is the frame's own (R140). -/
def composeFrame (s : State) : List Byte :=
  let pl := arg0N s
  let f := arg0Fcnt s
  let fl := arg1FoptsLen s
  let t := arg1Mtype s
  let port := arg1Port s
  let d := dirOf t
  let a := s.sessDevaddr
  let fixed := [mhdrByte t] ++ le 4 a.toNat ++ [fctrlByte (arg1FctrlHi s) fl] ++ le 2 f.toNat
    ++ ibuf s 0 fl
  let plain := ibuf s fl (fl + pl)
  let hdr := if 0 < pl then fixed ++ [port] else fixed
  let masked := if 0 < pl then maskBytes (maskKey s port) d a f plain else []
  hdr ++ masked ++ dataMic s.sessNwkskey d a f (micMessage s.cfg.micInput hdr masked plain)

/-- COMPOSE (42_frame R135): the checks in order, the first failure wins; then the frame to OBUF
and its length to RES0. -/
def execCompose (s : State) : Host.Outcome State Fault Refusal :=
  .next (
    if s.sessValid = false then raiseResult .headerError s
    else if isData (arg1Mtype s) = false then raiseResult .formatError s
    else if sessionMaxpl s < arg0N s then raiseResult .lengthError s
    else if 15 < arg1FoptsLen s then raiseResult .lengthError s
    else if maxFrameLen < composeLength (arg1FoptsLen s) (arg0N s) then raiseResult .lengthError s
    else finish (storeObuf (composeFrame s)
      { s with res0 := BitVec.ofNat 32 (composeLength (arg1FoptsLen s) (arg0N s)) }))

/-- What `Parse` returns (42_frame R136). -/
structure Header where
  mhdr : Byte
  mtype : BitVec 3
  addr : Word
  fctrl : Byte
  foptsLen : Nat
  fcnt : BitVec 16
  portPresent : Bool
  port : Byte
  payloadLen : Nat
deriving DecidableEq, Repr

/-- The fields of a frame `b` of length `n` that passes the checks of `Parse` (42_frame R136). -/
def headerOf (n : Nat) (b : List Byte) : Header :=
  let fl := fctrlFoptsLen (byteAt b 5)
  let rest := n - 12 - fl
  let pp := decide (1 ≤ rest)
  { mhdr := byteAt b 0
    mtype := mhdrMtype (byteAt b 0)
    addr := BitVec.ofNat 32 (fromLE (slice b 1 5))
    fctrl := byteAt b 5
    foptsLen := fl
    fcnt := BitVec.ofNat 16 (fromLE (slice b 6 8))
    portPresent := pp
    port := if pp then byteAt b (8 + fl) else 0
    payloadLen := if pp then rest - 1 else 0 }

/-- `Parse(N)` on `b = IBUF[0..N)` (42_frame R136): steps 1 and 2 of the decoder. -/
def parseFrame (n : Nat) (b : List Byte) : Except ResultCode Header :=
  if n < 12 ∨ maxFrameLen < n then .error .lengthError
  else if isData (mhdrMtype (byteAt b 0)) = false then .error .headerError
  else if n < 12 + fctrlFoptsLen (byteAt b 5) then .error .headerError
  else .ok (headerOf n b)

/-- `Parse(ARG0.N)` (42_frame R136 to R139). -/
def parseIbuf (s : State) : Except ResultCode Header :=
  parseFrame (arg0N s) (ibuf s 0 (arg0N s))

/-- RES0 of DECODE and GET_HEADER: PAYLOAD_LEN [8:0], PORT_PRESENT [12], FCNT [31:16]
(30_encoding R75). -/
def headerRes0 (h : Header) : Word :=
  BitVec.ofNat 32 h.payloadLen ||| ((BitVec.ofBool h.portPresent).setWidth 32 <<< 12)
    ||| (h.fcnt.setWidth 32 <<< 16)

/-- RES1 of DECODE and GET_HEADER: FOPTS_LEN [3:0], MTYPE [10:8], FCTRL_HI [15:12], PORT [23:16],
MHDR [31:24] (30_encoding R76). -/
def headerRes1 (h : Header) : Word :=
  BitVec.ofNat 32 h.foptsLen ||| (h.mtype.setWidth 32 <<< 8)
    ||| ((fctrlHi h.fctrl).setWidth 32 <<< 12) ||| (h.port.setWidth 32 <<< 16)
    ||| (h.mhdr.setWidth 32 <<< 24)

/-- The header bytes, MHDR to PORT, of a parsed frame `b` (42_frame R137). -/
def frameHeader (h : Header) (b : List Byte) : List Byte :=
  slice b 0 (8 + h.foptsLen + (if h.portPresent then 1 else 0))

/-- The payload of a parsed frame `b` as it stands on the wire (42_frame R137). -/
def framePayload (h : Header) (b : List Byte) : List Byte :=
  if h.portPresent then slice b (9 + h.foptsLen) (9 + h.foptsLen + h.payloadLen) else []

/-- The unmasked payload of a parsed frame `b`, step 3 of the decoder (42_frame R137). The address
is the frame's own. -/
def framePlain (s : State) (h : Header) (b : List Byte) : List Byte :=
  if h.portPresent then
    maskBytes (maskKey s h.port) (dirOf h.mtype) h.addr h.fcnt (framePayload h b)
  else []

/-- The MIC that a parsed frame `b` must end with, step 4 of the decoder (42_frame R137). -/
def frameMic (s : State) (h : Header) (b : List Byte) : List Byte :=
  dataMic s.sessNwkskey (dirOf h.mtype) h.addr h.fcnt
    (micMessage s.cfg.micInput (frameHeader h b) (framePayload h b) (framePlain s h b))

/-- DECODE (42_frame R137): session, Parse, MIC; then the options and the unmasked payload to OBUF
and the header to RES0..2. -/
def execDecode (s : State) : Host.Outcome State Fault Refusal :=
  .next (
    if s.sessValid = false then raiseResult .headerError s
    else match parseIbuf s with
      | .error code => raiseResult code s
      | .ok h =>
        let n := arg0N s
        let b := ibuf s 0 n
        if frameMic s h b ≠ slice b (n - 4) n then raiseResult .micError s
        else finish (storeObuf (slice b 8 (8 + h.foptsLen) ++ framePlain s h b)
          { s with res0 := headerRes0 h, res1 := headerRes1 h, res2 := h.addr }))

/-- GET_ADDRESS (42_frame R138): the device address of the frame, not authenticated. -/
def execGetAddress (s : State) : Host.Outcome State Fault Refusal :=
  .next (
    match parseIbuf s with
    | .error code => raiseResult code s
    | .ok h => finish { s with res2 := h.addr })

/-- GET_HEADER (42_frame R139): every header field of the frame, not authenticated. -/
def execGetHeader (s : State) : Host.Outcome State Fault Refusal :=
  .next (
    match parseIbuf s with
    | .error code => raiseResult code s
    | .ok h => finish { s with res0 := headerRes0 h, res1 := headerRes1 h, res2 := h.addr })

end Sys2Proof.Machine
end

