-- ==== Sys2Proof/Machine/Join.lean ====
section
/-! DEFINITION. The over-the-air join: JOIN_REQ and JOIN_ACCEPT (43_join R150 to R158). -/

namespace Sys2Proof.Machine

/-- The join-request without its MIC: MHDR, `le_8(APPEUI)`, `le_8(DEVEUI)`, `le_2(DEVNONCE)`
(43_join R150). -/
def joinRequestBody (s : State) : List Byte :=
  [mhdrByte (arg1Mtype s)] ++ le 8 s.appeui.toNat ++ le 8 s.deveui.toNat ++ le 2 s.devnonce.toNat

/-- JOIN_REQ (43_join R151): 19 bytes and their plain CMAC under APPKEY; no errors, no check of
MTYPE. -/
def execJoinReq (s : State) : Host.Outcome State Fault Refusal :=
  .next (
    let m := joinRequestBody s
    finish (storeObuf (m ++ cmacMic s.appkey m) { s with res0 := 23 }))

/-- `U` of 43_join R153: the AES direction that JA_UNWRAP selects. -/
def unwrapBlock (u : Config.JaUnwrap) (key x : Block) : Block :=
  match u with
  | .dec => aesDecrypt key x
  | .enc => aesEncrypt key x

/-- The plaintext of a join-accept `b` of length `n` (43_join R153): byte 0 in clear, then
`(n-1)/16` independent blocks. -/
def unwrapJoinAccept (u : Config.JaUnwrap) (key : Block) (n : Nat) (b : List Byte) : List Byte :=
  [byteAt b 0] ++ (List.range ((n - 1) / 16)).flatMap fun j =>
    blockBytes (unwrapBlock u key (bytesBlock (slice b (1 + 16 * j) (17 + 16 * j))))

/-- `D(tag)`: tag, application_nonce, network_id as wire bytes of the plaintext `p`,
`le_2(DEVNONCE)`, seven zeros (43_join R155). -/
def deriveInput (tag : Byte) (p : List Byte) (devnonce : BitVec 16) : List Byte :=
  [tag] ++ slice p 1 4 ++ slice p 4 7 ++ le 2 devnonce.toNat ++ zeros 7

/-- A session key: `AES_Enc(APPKEY, D(tag))` (43_join R155). -/
def deriveKey (key : Block) (tag : Byte) (p : List Byte) (devnonce : BitVec 16) : Block :=
  aesEncrypt key (bytesBlock (deriveInput tag p devnonce))

/-- JA_INFO from the control settings byte, the rx delay byte and the presence of the
channel-frequency list (10_state R39, 43_join R156). -/
def joinInfo (dl rx : Byte) (cf : Bool) : Word :=
  dl.setWidth 32 ||| (rx.setWidth 32 <<< 8) ||| ((BitVec.ofBool cf).setWidth 32 <<< 16)
    ||| ((dl.extractLsb' 4 3).setWidth 32 <<< 20) ||| ((dl.extractLsb' 0 4).setWidth 32 <<< 24)
    ||| ((rx.extractLsb' 0 4).setWidth 32 <<< 28)

/-- The plaintext of the join-accept in IBUF (43_join R153). -/
def joinPlain (s : State) : List Byte :=
  unwrapJoinAccept s.cfg.jaUnwrap s.appkey (arg0N s) (ibuf s 0 (arg0N s))

/-- The outputs of JOIN_ACCEPT from the plaintext `p` of length `n` (43_join R156). The session
registers and STG_FMT are not written. -/
def joinOutputs (n : Nat) (p : List Byte) (s : State) : State :=
  let cf := decide (n = 33)
  storeObuf p { s with
    stgNwkskey := deriveKey s.appkey 0x01 p s.devnonce
    stgAppskey := deriveKey s.appkey 0x02 p s.devnonce
    jaAppnonce := BitVec.ofNat 24 (fromLE (slice p 1 4))
    stgNetid := BitVec.ofNat 24 (fromLE (slice p 4 7))
    stgDevaddr := BitVec.ofNat 32 (fromLE (slice p 7 11))
    jaInfo := joinInfo (byteAt p 11) (byteAt p 12) cf
    jaCflist := if cf then bytesBlock (slice p 13 29) else 0
    res0 := BitVec.ofNat 32 n }

/-- JOIN_ACCEPT (43_join R156): length, then the plain CMAC of the plaintext under APPKEY (R154),
then the outputs. MHDR is not checked and the session is not loaded. -/
def execJoinAccept (s : State) : Host.Outcome State Fault Refusal :=
  .next (
    let n := arg0N s
    if n ≠ 17 ∧ n ≠ 33 then raiseResult .lengthError s
    else if cmacMic s.appkey (slice (joinPlain s) 0 (n - 4)) ≠ slice (joinPlain s) (n - 4) n then
      raiseResult .micError s
    else finish (joinOutputs n (joinPlain s) s))

end Sys2Proof.Machine
end

