-- ==== Sys2Proof/Machine/MaskMic.lean ====
section
/-! DEFINITION. The commands MASK, CMAC and DATA_MIC (41_mask_mic R118 to R120). -/

namespace Sys2Proof.Machine

/-- MASK (41_mask_mic R118): one keystream block; an index over 255 is FORMAT_ERROR. -/
def execMask (s : State) : Host.Outcome State Fault Refusal :=
  .next (
    if 255 < arg0N s then raiseResult .formatError s
    else finish { s with
      blkOut := keystream s.key (arg0Dir s) (arg2Devaddr s) (arg0Fcnt s) (arg0N s) })

/-- CMAC (41_mask_mic R119): the tag of `IBUF[0..N)` and its MIC word; more than 256 bytes is
LENGTH_ERROR. -/
def execCmac (s : State) : Host.Outcome State Fault Refusal :=
  .next (
    if 256 < arg0N s then raiseResult .lengthError s
    else
      let tag := cmac s.key (ibuf s 0 (arg0N s))
      finish { s with blkOut := tag, res0 := micWord ((blockBytes tag).take 4) })

/-- DATA_MIC (41_mask_mic R120): the MIC word of `IBUF[0..N)` behind its B0 block; more than 255
bytes is LENGTH_ERROR. -/
def execDataMic (s : State) : Host.Outcome State Fault Refusal :=
  .next (
    if 255 < arg0N s then raiseResult .lengthError s
    else finish { s with
      res0 := micWord
        (dataMic s.key (arg0Dir s) (arg2Devaddr s) (arg0Fcnt s) (ibuf s 0 (arg0N s))) })

end Sys2Proof.Machine
end

