-- ==== Sys2Proof/Machine/Session.lean ====
section
/-! DEFINITION. The session commands SESSION_LOAD and SESSION_CLEAR
(44_session_classify R170, R171). -/

namespace Sys2Proof.Machine

/-- SESSION_LOAD (44_session_classify R170): the staging registers become the session as a unit;
FORMAT_ERROR, and the session kept, if the format is unsupported. -/
def execSessionLoad (s : State) : Host.Outcome State Fault Refusal :=
  .next (
    match maxplOf s.cfg s.stgFmt with
    | none => raiseResult .formatError s
    | some _ => finish { s with
        sessFmt := s.stgFmt
        sessValid := true
        sessNetid := s.stgNetid
        sessDevaddr := s.stgDevaddr
        sessNwkskey := s.stgNwkskey
        sessAppskey := s.stgAppskey })

/-- SESSION_CLEAR (44_session_classify R171): the pre-join state; no errors. -/
def execSessionClear (s : State) : Host.Outcome State Fault Refusal :=
  .next (finish { s with
    sessFmt := 0
    sessValid := false
    sessNetid := 0
    sessDevaddr := 0
    sessNwkskey := 0
    sessAppskey := 0 })

end Sys2Proof.Machine
end

