-- ==== Sys2Proof/Machine/Dispatch.lean ====
section
/-! DEFINITION. One arm per command: `exec i s` runs the command `i` to its completion step. -/

namespace Sys2Proof.Machine

def exec (i : Instr) (s : State) : Host.Outcome State Fault Refusal :=
  match i with
  | .aesEnc => Sys2Proof.Machine.execAesEnc s
  | .aesDec => Sys2Proof.Machine.execAesDec s
  | .mask => Sys2Proof.Machine.execMask s
  | .cmac => Sys2Proof.Machine.execCmac s
  | .dataMic => Sys2Proof.Machine.execDataMic s
  | .compose => Sys2Proof.Machine.execCompose s
  | .decode => Sys2Proof.Machine.execDecode s
  | .getAddress => Sys2Proof.Machine.execGetAddress s
  | .getHeader => Sys2Proof.Machine.execGetHeader s
  | .joinReq => Sys2Proof.Machine.execJoinReq s
  | .joinAccept => Sys2Proof.Machine.execJoinAccept s
  | .sessionLoad => Sys2Proof.Machine.execSessionLoad s
  | .sessionClear => Sys2Proof.Machine.execSessionClear s
  | .getDirection => Sys2Proof.Machine.execGetDirection s
  | .ackRequest => Sys2Proof.Machine.execAckRequest s
  | .maxPayload => Sys2Proof.Machine.execMaxPayload s

end Sys2Proof.Machine
end

