-- ==== Sys2Proof/Decode.lean ====
section
/-! DEFINITION. The decoder of command words and, after it, the encoder (30_encoding R70, R71,
R79, R82). -/

namespace Sys2Proof

/-- Why a command word is illegal (30_encoding R79). Either way it completes with CMD_ERROR. -/
inductive IllegalWord where
  /-- some bit of `[31:8]` is set -/
  | reservedBits
  /-- OPC is not listed in 30_encoding R71 -/
  | unlistedOpcode
deriving DecidableEq, Repr

/-- The result of decoding: a command, or Illegal (30_encoding R70). -/
inductive Decoded where
  | command (i : Instr)
  | illegal (reason : IllegalWord)
deriving DecidableEq, Repr

/-- The opcode of a command (30_encoding R71). -/
def opcode : Instr → Byte
  | .aesEnc => 0x01
  | .aesDec => 0x02
  | .mask => 0x03
  | .cmac => 0x04
  | .dataMic => 0x05
  | .compose => 0x10
  | .decode => 0x11
  | .getAddress => 0x12
  | .getHeader => 0x13
  | .joinReq => 0x20
  | .joinAccept => 0x21
  | .sessionLoad => 0x30
  | .sessionClear => 0x31
  | .getDirection => 0x40
  | .ackRequest => 0x41
  | .maxPayload => 0x42

/-- The command an opcode names (30_encoding R71), read in the direction of the core. -/
def commandOfOpcode (opc : Byte) : Option Instr :=
  match opc.toNat with
  | 0x01 => some .aesEnc
  | 0x02 => some .aesDec
  | 0x03 => some .mask
  | 0x04 => some .cmac
  | 0x05 => some .dataMic
  | 0x10 => some .compose
  | 0x11 => some .decode
  | 0x12 => some .getAddress
  | 0x13 => some .getHeader
  | 0x20 => some .joinReq
  | 0x21 => some .joinAccept
  | 0x30 => some .sessionLoad
  | 0x31 => some .sessionClear
  | 0x40 => some .getDirection
  | 0x41 => some .ackRequest
  | 0x42 => some .maxPayload
  | _ => none

/-- The decoder of 30_encoding R70: total on every 32-bit word (R82). -/
def decode (w : Word) : Decoded :=
  if w.extractLsb' 8 24 ≠ 0 then .illegal .reservedBits
  else match commandOfOpcode (w.extractLsb' 0 8) with
    | some i => .command i
    | none => .illegal .unlistedOpcode

/-- The instruction the decoder reads from a table row's bits. A command is one 32-bit word;
bits above `nbits` are 0, and a number that does not fit the word is no command. -/
def decodeTableWord (nbits w : Nat) : Option Instr :=
  if w % 2 ^ nbits < 2 ^ 32 then
    match decode (BitVec.ofNat 32 (w % 2 ^ nbits)) with
    | .command i => some i
    | .illegal _ => none
  else none

/-- The command word of a command: OPC in `[7:0]`, `[31:8]` zero (30_encoding R70, R71). -/
def encode (i : Instr) : Word := (0#24 : BitVec 24) ++ opcode i

end Sys2Proof
end

