-- ==== Sys2Proof/Machine/HostProgram.lean ====
section
/-! DEFINITION. The host: the pins it drives in a cycle, and the program notation of
30_encoding R80 and R81 as the accesses it stands for. Log 2. -/

namespace Sys2Proof.Machine

/-- A cycle without access (20_memory R50). -/
def idlePins : BusCycle :=
  { rst := false, sel := false, we := false, addr := 0, size := 0, wdata := 0 }

/-- A cycle with `rst = 1` and no access (70_reset_and_hazards R210). -/
def resetPins : BusCycle := { idlePins with rst := true }

/-- `MemWrite(off, 4, v)`: one word write (00_scope R17). -/
def writePins (off : Offset) (v : Word) : BusCycle :=
  { rst := false, sel := true, we := true, addr := off, size := 2, wdata := v }

/-- `MemRead(off, 4)`: one word read (00_scope R17). -/
def readPins (off : Offset) : BusCycle :=
  { rst := false, sel := true, we := false, addr := off, size := 2, wdata := 0 }

/-- The offset of STATUS (10_state R22). -/
def statusOffset : Offset := 0x004

/-- The input pins of this cycle: the head of the host's list; a host with nothing to do drives no
access. -/
def currentPins (s : State) : BusCycle :=
  match s.host with
  | [] => idlePins
  | .cycle p :: _ => p
  | .poll :: _ => readPins statusOffset

/-- What the host still has to do after this cycle. `wait` (30_encoding R81) goes on to the next
form when the STATUS it reads in this cycle has BUSY = 0, and else polls again. -/
def nextHost (s : State) : List HostOp :=
  match s.host with
  | [] => []
  | .cycle _ :: rest => rest
  | .poll :: rest => if s.busy then .poll :: rest else rest

/-- The state with the host moved past this cycle. -/
def advanceHost (s : State) : State := { s with host := nextHost s }

/-! ### Program notation -/

/-- `wr REG, imm` (30_encoding R80). -/
def wr (off : Offset) (imm : Word) : List HostOp := [.cycle (writePins off imm)]

/-- `rd REG` (30_encoding R80). -/
def rd (off : Offset) : List HostOp := [.cycle (readPins off)]

/-- `cmd MNEMONIC`: `wr CMD, OPC(MNEMONIC)` (30_encoding R80). -/
def cmd (i : Instr) : List HostOp := wr 0x000 (encode i)

/-- `wait` (30_encoding R81). -/
def wait : List HostOp := [.poll]

/-- `run MNEMONIC`: `cmd MNEMONIC`; `wait` (30_encoding R81). -/
def run (i : Instr) : List HostOp := cmd i ++ wait

/-- Writes of the words of a byte string, from an offset on; bytes past the string are 0. -/
def wrWords : Nat → Offset → List Byte → List HostOp
  | 0, _, _ => []
  | n + 1, off, b =>
    wr off (BitVec.ofNat 32 (fromLE (b.take 4))) ++ wrWords n (off + 4) (b.drop 4)

/-- `wr128 REG, b0 b1 .. b15` (30_encoding R81). -/
def wr128 (off : Offset) (b : List Byte) : List HostOp := wrWords 4 off b

/-- `wr64 REG, E` (30_encoding R81). -/
def wr64 (off : Offset) (e : BitVec 64) : List HostOp :=
  wr off (getWord e 0) ++ wr (off + 4) (getWord e 1)

/-- `wrbuf IBUF+k, b0 .. b(n-1)`, `k` a multiple of 4 (30_encoding R81). -/
def wrbuf (k : Offset) (b : List Byte) : List HostOp :=
  wrWords ((b.length + 3) / 4) (0x100 + k) b

/-- `arg0 N=a, DIR=d, FCNT=f` (30_encoding R81). -/
def arg0 (n d f : Nat) : List HostOp :=
  wr 0x010 (BitVec.ofNat 32 (n + d <<< 12 + f <<< 16))

/-- `arg1 FOPTS_LEN=l, MTYPE=t, FCTRL_HI=h, PORT=p` (30_encoding R81). -/
def arg1 (l t h p : Nat) : List HostOp :=
  wr 0x014 (BitVec.ofNat 32 (l + t <<< 8 + h <<< 12 + p <<< 16))

end Sys2Proof.Machine
end

