-- ==== Sys2Proof/Machine/Flags.lean ====
section
/-! DEFINITION. The flags: STATUS, IRQ_EN, SESS_CFG as words, the write-1-to-clear of STATUS and
the interrupt output (10_state R24, R25, R33, R42, R45). -/

namespace Sys2Proof.Machine

/-- One bit as a word, at bit position `n`. -/
def bitAt (b : Bool) (n : Nat) : Word := (BitVec.ofBool b).setWidth 32 <<< n

/-- STATUS as it reads (10_state R24): BUSY [0], DONE [1], RESULT [7:4], WERR [8],
SESS_VALID [16], every other bit 0. -/
def statusWord (s : State) : Word :=
  bitAt s.busy 0 ||| bitAt s.done 1 ||| (s.result.setWidth 32 <<< 4) ||| bitAt s.werr 8
    ||| bitAt s.sessValid 16

/-- A host write to STATUS: 1 in bit 1 clears DONE, 1 in bit 8 clears WERR, every other bit is
ignored; whatever the value of BUSY (10_state R24). -/
def writeStatus (v : Word) (s : State) : State :=
  { s with done := s.done && !v.getLsbD 1, werr := s.werr && !v.getLsbD 8 }

/-- IRQ_EN as it reads: DONE_IE [0], the rest 0 (10_state R25). -/
def irqEnWord (s : State) : Word := bitAt s.doneIe 0

/-- A host write to IRQ_EN; bits [31:1] are ignored (10_state R25). -/
def writeIrqEn (v : Word) (s : State) : State := { s with doneIe := v.getLsbD 0 }

/-- SESS_CFG as it reads: FMT [7:0], VALID [16], the rest 0 (10_state R33). -/
def sessCfgWord (s : State) : Word := s.sessFmt.setWidth 32 ||| bitAt s.sessValid 16

/-- The interrupt output, a level: `STATUS.DONE and IRQ_EN.DONE_IE` (10_state R45,
60_exceptions R197). -/
def irq (s : State) : Bool := s.done && s.doneIe

/-- A write that is ignored because BUSY = 1 sets the sticky WERR (10_state R24, R48). -/
def setWerr (s : State) : State := { s with werr := true }

end Sys2Proof.Machine
end

