-- ==== Sys2Proof/Machine/Registers.lean ====
section
/-! DEFINITION. The register window (10_state R22): which register a word offset reaches, and what
a read and a write of each does. -/

namespace Sys2Proof.Machine

/-- The registers of the window (10_state R22). -/
inductive Reg where
  | cmd | status | irqEn
  | arg0 | arg1 | arg2 | res0 | res1 | res2
  | key | blkIn | blkOut
  | sessCfg | sessNetid | sessDevaddr | sessNwkskey | sessAppskey
  | stgFmt | stgNetid | stgDevaddr | stgNwkskey | stgAppskey
  | appeui | deveui | devnonce | jaAppnonce | jaInfo | appkey | jaCflist
  | ibuf | obuf
  | reserved
deriving DecidableEq, Repr

/-- The window map: first offset, number of words, register (10_state R22). -/
def windowMap : List (Nat × Nat × Reg) :=
  [(0x000, 1, .cmd), (0x004, 1, .status), (0x008, 1, .irqEn), (0x00C, 1, .reserved),
   (0x010, 1, .arg0), (0x014, 1, .arg1), (0x018, 1, .arg2), (0x01C, 1, .reserved),
   (0x020, 1, .res0), (0x024, 1, .res1), (0x028, 1, .res2), (0x02C, 1, .reserved),
   (0x030, 4, .key), (0x040, 4, .blkIn), (0x050, 4, .blkOut),
   (0x060, 1, .sessCfg), (0x064, 1, .sessNetid), (0x068, 1, .sessDevaddr), (0x06C, 1, .reserved),
   (0x070, 4, .sessNwkskey), (0x080, 4, .sessAppskey),
   (0x090, 1, .stgFmt), (0x094, 1, .stgNetid), (0x098, 1, .stgDevaddr), (0x09C, 1, .reserved),
   (0x0A0, 4, .stgNwkskey), (0x0B0, 4, .stgAppskey),
   (0x0C0, 2, .appeui), (0x0C8, 2, .deveui),
   (0x0D0, 1, .devnonce), (0x0D4, 1, .jaAppnonce), (0x0D8, 1, .jaInfo), (0x0DC, 1, .reserved),
   (0x0E0, 4, .appkey), (0x0F0, 4, .jaCflist),
   (0x100, 64, .ibuf), (0x200, 64, .obuf), (0x300, 64, .reserved)]

/-- The register and the index of the word within it that an offset reaches (10_state R22). -/
def locate (off : Nat) : Reg × Nat :=
  match windowMap.find? (fun row => decide (row.1 ≤ off) && decide (off < row.1 + 4 * row.2.1)) with
  | some row => (row.2.2, (off - row.1) / 4)
  | none => (.reserved, 0)

/-- Word `i` of a buffer, byte `4i + k` in bits `[8k+7:8k]` (10_state R40). -/
def bufWord (s : State) (base i : Nat) : Word :=
  BitVec.ofNat 32 (fromLE (bytesFrom s (base + 4 * i) 4))

/-- The stored value of word `i` of a register; CMD and reserved offsets read 0
(10_state R23 to R40). -/
def readReg (s : State) : Reg → Nat → Word
  | .cmd, _ => 0
  | .status, _ => statusWord s
  | .irqEn, _ => irqEnWord s
  | .arg0, _ => s.arg0
  | .arg1, _ => s.arg1
  | .arg2, _ => s.arg2
  | .res0, _ => s.res0
  | .res1, _ => s.res1
  | .res2, _ => s.res2
  | .key, i => getWord s.key i
  | .blkIn, i => getWord s.blkIn i
  | .blkOut, i => getWord s.blkOut i
  | .sessCfg, _ => sessCfgWord s
  | .sessNetid, _ => s.sessNetid.setWidth 32
  | .sessDevaddr, _ => s.sessDevaddr
  | .sessNwkskey, i => getWord s.sessNwkskey i
  | .sessAppskey, i => getWord s.sessAppskey i
  | .stgFmt, _ => s.stgFmt.setWidth 32
  | .stgNetid, _ => s.stgNetid.setWidth 32
  | .stgDevaddr, _ => s.stgDevaddr
  | .stgNwkskey, i => getWord s.stgNwkskey i
  | .stgAppskey, i => getWord s.stgAppskey i
  | .appeui, i => getWord s.appeui i
  | .deveui, i => getWord s.deveui i
  | .devnonce, _ => s.devnonce.setWidth 32
  | .jaAppnonce, _ => s.jaAppnonce.setWidth 32
  | .jaInfo, _ => s.jaInfo
  | .appkey, i => getWord s.appkey i
  | .jaCflist, i => getWord s.jaCflist i
  | .ibuf, i => bufWord s ibufBase i
  | .obuf, i => bufWord s obufBase i
  | .reserved, _ => 0

/-- Output-side registers: a read while BUSY = 1 returns an unspecified value (10_state R49). -/
def readsFreeWhileBusy : Reg → Bool
  | .res0 | .res1 | .res2 | .blkOut
  | .sessCfg | .sessNetid | .sessDevaddr | .sessNwkskey | .sessAppskey
  | .stgFmt | .stgNetid | .stgDevaddr | .stgNwkskey | .stgAppskey
  | .jaAppnonce | .jaInfo | .jaCflist | .obuf => true
  | _ => false

/-- Registers whose writes are ignored, and set WERR, while BUSY = 1 (10_state R48). -/
def lockedWhileBusy : Reg → Bool
  | .cmd | .arg0 | .arg1 | .arg2 | .key | .blkIn
  | .stgFmt | .stgNetid | .stgDevaddr | .stgNwkskey | .stgAppskey
  | .appeui | .deveui | .devnonce | .appkey | .ibuf => true
  | _ => false

/-- What an accepted write of `v` to word `i` of a register does when it is not locked: the
writable bits are stored, CMD starts a command, read-only registers and reserved offsets ignore it
(10_state R22 to R40). -/
def writeReg (v : Word) (s : State) : Reg → Nat → State
  | .cmd, _ => acceptCommand v s
  | .status, _ => writeStatus v s
  | .irqEn, _ => writeIrqEn v s
  | .arg0, _ => { s with arg0 := v }
  | .arg1, _ => { s with arg1 := v }
  | .arg2, _ => { s with arg2 := v }
  | .key, i => { s with key := setWord s.key i v }
  | .blkIn, i => { s with blkIn := setWord s.blkIn i v }
  | .stgFmt, _ => { s with stgFmt := v.extractLsb' 0 8 }
  | .stgNetid, _ => { s with stgNetid := v.extractLsb' 0 24 }
  | .stgDevaddr, _ => { s with stgDevaddr := v }
  | .stgNwkskey, i => { s with stgNwkskey := setWord s.stgNwkskey i v }
  | .stgAppskey, i => { s with stgAppskey := setWord s.stgAppskey i v }
  | .appeui, i => { s with appeui := setWord s.appeui i v }
  | .deveui, i => { s with deveui := setWord s.deveui i v }
  | .devnonce, _ => { s with devnonce := v.extractLsb' 0 16 }
  | .appkey, i => { s with appkey := setWord s.appkey i v }
  | .ibuf, i => { s with mem := s.mem.writeBytes (ibufBase + 4 * i) (le 4 v.toNat) }
  | .res0, _ | .res1, _ | .res2, _ | .blkOut, _ => s
  | .sessCfg, _ | .sessNetid, _ | .sessDevaddr, _ | .sessNwkskey, _ | .sessAppskey, _ => s
  | .jaAppnonce, _ | .jaInfo, _ | .jaCflist, _ => s
  | .obuf, _ => s
  | .reserved, _ => s

/-- An accepted word read at an offset (20_memory R52): the stored value, or a free draw in the
cases of 10_state R49. -/
def busRead (off : Nat) (s : State) : Word × State :=
  let (r, i) := locate off
  if s.busy && readsFreeWhileBusy r then drawBusyRead s else (readReg s r i, s)

/-- An accepted word write at an offset (20_memory R52): ignored with WERR set if BUSY = 1 locks
the register (10_state R48). -/
def busWrite (off : Nat) (v : Word) (s : State) : State :=
  let (r, i) := locate off
  if s.busy && lockedWhileBusy r then setWerr s else writeReg v s r i

/-- The access of one cycle without reset (20_memory R50 to R52): none, an accepted read or write
with its answer on the pins, or an access the model refuses (R51). -/
def busAccess (p : BusCycle) (s : State) : Except Refusal State :=
  if p.sel = false then .ok { s with response := none }
  else if p.wordAccess = false then .error (.unsupportedAccess 0 true)
  else if p.we then
    .ok { busWrite p.addr.toNat p.wdata s with response := some { rdata := none, err := false } }
  else
    let (v, s') := busRead p.addr.toNat s
    .ok { s' with response := some { rdata := some v, err := false } }

end Sys2Proof.Machine
end

