-- ==== Sys2Proof/Machine/Engine.lean ====
section
/-! DEFINITION. One clock cycle: the pins, the reset, the access, and the core's own edge
(10_state R47, 60_exceptions R192, 70_reset_and_hazards R210). -/

namespace Sys2Proof.Machine

/-- Run PENDING to its completion step: the command it decodes to, or CMD_ERROR and nothing else
for an illegal word (30_encoding R70, 60_exceptions R194). -/
def runPending (s : State) : Host.Outcome State Fault Refusal :=
  match decode s.pending with
  | .command i => exec i s
  | .illegal _ => .next (raiseResult .cmdError s)

/-- The core's edge in a cycle in which a command is running: the completion edge if this is the
last of its LAT cycles, else one cycle less to go (00_scope R11, 60_exceptions R192). -/
def coreEdge (s : State) : Host.Outcome State Fault Refusal :=
  if s.remaining ≤ 1 then runPending { s with remaining := 0 }
  else .next { s with remaining := s.remaining - 1 }

/-- One clock cycle. With `rst = 1` the access is ignored and any command aborted
(70_reset_and_hazards R210, R212). Otherwise the access sees the state before the edge, and a
command that was running before the edge moves on; completion comes after the access, so that it
wins over a clearing of DONE (10_state R24). Log 1, 12, 13. -/
def clockCycle (s : State) : Host.Outcome State Fault Refusal :=
  let p := currentPins s
  if p.rst then .next (resetCycle (advanceHost s))
  else match busAccess p (advanceHost s) with
    | .error r => .refused r
    | .ok s' => if s.busy then coreEdge s' else .next s'

/-- The state in which an instruction's bits have been accepted as a command word with LAT = 1 and
the host makes no access in the next cycle. A command is one word; bits above `nbits` are 0.
Log 2. -/
def placeCommand (nbits w : Nat) (s : State) : State :=
  { s with
    pending := BitVec.ofNat 32 (w % 2 ^ nbits)
    busy := true
    done := false
    remaining := 1
    host := .cycle idlePins :: s.host }

end Sys2Proof.Machine
end

