-- ==== Sys2Proof/Machine/Step.lean ====
section
/-! DEFINITION. The step: one clock cycle (20_memory R50). -/

namespace Sys2Proof.Machine

/-- One step of the machine is one clock cycle. -/
def step (s : State) : Host.Outcome State Fault Refusal := clockCycle s

/-- The state whose next step runs the command with these bits. -/
def State.withFetchWord (s : State) (nbits w : Nat) : State := placeCommand nbits w s

end Sys2Proof.Machine
end

