-- ==== Sys2Proof/Safety.lean ====
section
/-! DEFINITION. What claims call safe: the invariant of the machine, a host whose accesses the
hardware accepts, and what a failed command leaves. -/

namespace Sys2Proof.Machine

/-- STATUS.RESULT is one of the codes of 60_exceptions R190; 5 to 14 are "never produced"
(93 U9). -/
def ResultLegal (s : State) : Prop :=
  s.result = 0 ∨ s.result = 1 ∨ s.result = 2 ∨ s.result = 3 ∨ s.result = 4 ∨ s.result = 15

/-- A running command has DONE = 0 and at least one cycle to go; without one there is none to go
(10_state R47, 00_scope R11). -/
def EngineOk (s : State) : Prop :=
  (s.busy = true → s.done = false ∧ 1 ≤ s.remaining) ∧ (s.busy = false → s.remaining = 0)

/-- The session is active with a supported format, or in the pre-join state with everything unset
(10_state R33, 44_session_classify R170, R171, R176). -/
def SessionOk (s : State) : Prop :=
  (s.sessValid = true → ∃ n, maxplOf s.cfg s.sessFmt = some n) ∧
  (s.sessValid = false → s.sessFmt = 0 ∧ s.sessNetid = 0 ∧ s.sessDevaddr = 0 ∧
    s.sessNwkskey = 0 ∧ s.sessAppskey = 0)

/-- JA_INFO holds its raw bytes, its flag, the fields split from the bytes, and 0 in its reserved
bits; without a channel-frequency list JA_CFLIST is 0 (10_state R39). -/
def JoinOk (s : State) : Prop :=
  s.jaInfo = joinInfo (s.jaInfo.extractLsb' 0 8) (s.jaInfo.extractLsb' 8 8) (s.jaInfo.getLsbD 16) ∧
  (s.jaInfo.getLsbD 16 = false → s.jaCflist = 0)

/-- The invariant that every step keeps. -/
def Inv (s : State) : Prop :=
  s.mem.wf = true ∧ ResultLegal s ∧ EngineOk s ∧ SessionOk s ∧ JoinOk s

/-- Every access the host still makes is one the hardware accepts (20_memory R51). -/
def HostOk (s : State) : Prop := s.host.all HostOp.wellFormed = true

/-- `s` with a command completed under a result code: only BUSY, DONE and RESULT change
(60_exceptions R192, R195). -/
def ended (code : BitVec 4) (s : State) : State :=
  { s with result := code, busy := false, done := true }

/-- The completion step at `s` of what PENDING holds, ending in `t`: the effect of the command it
decodes to, or CMD_ERROR and nothing else if it is illegal (30_encoding R70, 60_exceptions R192,
R194). -/
def CompletesTo (s t : State) : Prop :=
  (∃ i, decode s.pending = .command i ∧ exec i s = .next t) ∨
  (∃ r, decode s.pending = .illegal r ∧ t = ended 15 s)

/-- `s` with the host past this cycle's operation and the answer of its access on the pins
(20_memory R50). -/
def answered (rest : List HostOp) (answer : Option BusResponse) (s : State) : State :=
  { s with host := rest, response := answer }

/-- The four bytes of a word on the wire, least significant first (20_memory R55). -/
def wireWord (a : Word) : List Byte :=
  [a.extractLsb' 0 8, a.extractLsb' 8 8, a.extractLsb' 16 8, a.extractLsb' 24 8]

/-- The two bytes of a 16-bit value on the wire, least significant first (20_memory R55). -/
def wireHalf (f : BitVec 16) : List Byte := [f.extractLsb' 0 8, f.extractLsb' 8 8]

/-- How many bytes of IBUF a command reads, from IBUF[0] on (20_memory R64). -/
def ibufRead (i : Instr) (s : State) : Nat :=
  match i with
  | .cmac | .dataMic | .decode | .getAddress | .getHeader | .joinAccept => arg0N s
  | .compose => arg1FoptsLen s + arg0N s
  | .aesEnc | .aesDec | .mask | .joinReq | .sessionLoad | .sessionClear | .getDirection
  | .ackRequest | .maxPayload => 0

/-- How many bytes of OBUF a command that ended in `t` wrote, from OBUF[0] on: the length it
states (10_state R41, 70_reset_and_hazards R220). -/
def obufWritten (i : Instr) (t : State) : Nat :=
  match i with
  | .compose | .joinReq | .joinAccept => t.res0.toNat
  | .decode => (t.res1.extractLsb' 0 4).toNat + (t.res0.extractLsb' 0 9).toNat
  | .aesEnc | .aesDec | .mask | .cmac | .dataMic | .getAddress | .getHeader | .sessionLoad
  | .sessionClear | .getDirection | .ackRequest | .maxPayload => 0

/-- RES0 of DECODE and GET_HEADER, field by field; every other bit is 0 (30_encoding R75). -/
def HeaderRes0 (w : Word) (payloadLen : Nat) (portPresent : Bool) (fcnt : BitVec 16) : Prop :=
  (w.extractLsb' 0 9).toNat = payloadLen ∧ w.extractLsb' 9 3 = 0 ∧ w.getLsbD 12 = portPresent ∧
  w.extractLsb' 13 3 = 0 ∧ w.extractLsb' 16 16 = fcnt

/-- RES1 of DECODE and GET_HEADER, field by field; bits [7:4] and [11] are 0 (30_encoding R76). -/
def HeaderRes1 (w : Word) (fctrl : Byte) (port mhdr : Byte) : Prop :=
  w.extractLsb' 0 4 = fctrl.extractLsb' 0 4 ∧ w.extractLsb' 4 4 = 0 ∧
  w.extractLsb' 8 3 = mhdr.extractLsb' 5 3 ∧ w.getLsbD 11 = false ∧
  w.extractLsb' 12 4 = fctrl.extractLsb' 4 4 ∧ w.extractLsb' 16 8 = port ∧
  w.extractLsb' 24 8 = mhdr

/-- `t` has OBUF[0..len(b)) equal to `b`, and every other byte of IBUF and OBUF as in `s`
(10_state R41). -/
def ObufHolds (b : List Byte) (s t : State) : Prop :=
  ∀ x, byteOf t x =
    if obufBase ≤ x ∧ x < obufBase + b.length then byteAt b (x - obufBase) else byteOf s x

/-- `t` is `s` but for STATUS.BUSY, STATUS.DONE and STATUS.RESULT (60_exceptions R195). -/
def SameButStatus (s t : State) : Prop :=
  t = { s with busy := t.busy, done := t.done, result := t.result }

end Sys2Proof.Machine
end

