-- ==== Sys2Proof/Certificates/Slice0/Obligations.lean ====
section
/-! DEFINITION. The statements for the provers. Every statement about a command is about every
state, unless its hypotheses say otherwise; a record update `{ s with … }` is its whole frame. -/

open Sys2Proof Sys2Proof.Machine

/-! ### Encoding (30_encoding) -/

/-- 30_encoding R70, R71, R82: decoding the word of a command gives it back. -/
def Obligations.DecodeOfEncodeIsTheCommand : Prop :=
  ∀ i : Instr, decode (encode i) = .command i

/-- 30_encoding R71: the sixteen opcodes, written out, each name their command. -/
def Obligations.OpcodeMapDecodes : Prop :=
  decode 0x00000001 = .command .aesEnc ∧ decode 0x00000002 = .command .aesDec ∧
  decode 0x00000003 = .command .mask ∧ decode 0x00000004 = .command .cmac ∧
  decode 0x00000005 = .command .dataMic ∧ decode 0x00000010 = .command .compose ∧
  decode 0x00000011 = .command .decode ∧ decode 0x00000012 = .command .getAddress ∧
  decode 0x00000013 = .command .getHeader ∧ decode 0x00000020 = .command .joinReq ∧
  decode 0x00000021 = .command .joinAccept ∧ decode 0x00000030 = .command .sessionLoad ∧
  decode 0x00000031 = .command .sessionClear ∧ decode 0x00000040 = .command .getDirection ∧
  decode 0x00000041 = .command .ackRequest ∧ decode 0x00000042 = .command .maxPayload

/-- 30_encoding R70, R79, R82: every word is the word of exactly one command or is illegal; it is a
command's word exactly when it is the one `encode` gives, and it is illegal exactly when a bit of
[31:8] is set or its OPC is one of the unlisted values. -/
def Obligations.EveryWordIsOneCommandOrIllegal : Prop :=
  ∀ w : Word,
    (∀ i, decode w = .command i ↔ w = encode i) ∧
    ((∃ r, decode w = .illegal r) ↔
      w.extractLsb' 8 24 ≠ 0 ∨
      (let opc := (w.extractLsb' 0 8).toNat
       opc = 0x00 ∨ (0x06 ≤ opc ∧ opc ≤ 0x0F) ∨ (0x14 ≤ opc ∧ opc ≤ 0x1F) ∨
       (0x22 ≤ opc ∧ opc ≤ 0x2F) ∨ (0x32 ≤ opc ∧ opc ≤ 0x3F) ∨ (0x43 ≤ opc ∧ opc ≤ 0xFF)))

/-! ### The clock cycle, the bus and the flags (10_state, 20_memory, 60_exceptions, 70_reset) -/

/-- At the completion edge the step is `exec` of the command that PENDING decodes to, on the state
the access of that cycle leaves, with no cycle of the command left to go. That the access comes
first is DEDUCED (log 1, 12). -/
def Obligations.StepRunsTheDecodedCommand : Prop :=
  ∀ (s s' : State) (i : Instr),
    s.busy = true → s.remaining ≤ 1 → (currentPins s).rst = false →
    busAccess (currentPins s) (advanceHost s) = .ok s' →
    decode s.pending = .command i →
    step s = exec i { s' with remaining := 0 }

/-- A command placed for the next step is the one it runs. The placing is the model's (log 2). -/
def Obligations.PlacedCommandRunsNext : Prop :=
  ∀ (s : State) (i : Instr),
    step (s.withFetchWord 32 (encode i).toNat) =
      exec i { s with
        pending := encode i
        busy := true
        done := false
        remaining := 0
        response := none }

/-- 60_exceptions R194, 30_encoding R79: at its completion edge an illegal word ends with CMD_ERROR;
nothing else changes but what the access of that cycle does (which comes first, DEDUCED, log 1, 12),
and nothing at all if the host makes none. -/
def Obligations.IllegalWordEndsWithCmdError : Prop :=
  (∀ (s s' : State) (r : IllegalWord),
    s.busy = true → s.remaining ≤ 1 → (currentPins s).rst = false →
    busAccess (currentPins s) (advanceHost s) = .ok s' → decode s.pending = .illegal r →
    step s = .next (ended 15 { s' with remaining := 0 })) ∧
  (∀ (s : State) (r : IllegalWord),
    s.busy = true → s.remaining ≤ 1 → s.host = [] → decode s.pending = .illegal r →
    step s = .next (ended 15 { s with remaining := 0, response := none }))

/-- 10_state R26: CMD is write-only; a write while BUSY = 0 latches PENDING and starts a command
(R47: BUSY, DONE; RESULT kept; LAT at least 1), a write while BUSY = 1 sets WERR and nothing else. -/
def Obligations.CmdWriteStartsACommand : Prop :=
  (∀ s : State, busRead 0x000 s = (0, s)) ∧
  (∀ (s : State) (v : Word), s.busy = false →
    ∃ t, busWrite 0x000 v s = t ∧ 1 ≤ t.remaining ∧
      t = { s with
        pending := v
        busy := true
        done := false
        remaining := t.remaining
        latencies := t.latencies
        draws := t.draws }) ∧
  (∀ (s : State) (v : Word), s.busy = true → busWrite 0x000 v s = { s with werr := true })

/-- 20_memory R50, R52, R59: a cycle without reset in which no command completes performs the access
of its pins and nothing else, but that a running command has one cycle less to go. A write stores by
`busWrite` and answers `err = 0`, a read answers the word of `busRead` with `err = 0`, no access
answers nothing; the offset is the pins'. (`answered` moves the host, log 2, and sets the pins,
log 9.) -/
def Obligations.StepPerformsTheAccess : Prop :=
  ∀ (s : State), (s.busy = true → 2 ≤ s.remaining) →
    let moved := fun t : State => { t with remaining := if s.busy then s.remaining - 1 else t.remaining }
    (s.host = [] → step s = .next (moved (answered [] none s))) ∧
    (∀ (p : BusCycle) (rest : List HostOp), s.host = .cycle p :: rest → p.rst = false →
      (p.sel = false → step s = .next (moved (answered rest none s))) ∧
      (p.sel = true → p.size = 2 → p.addr.toNat % 4 = 0 →
        (p.we = true → step s = .next (moved (answered rest (some { rdata := none, err := false })
          (busWrite p.addr.toNat p.wdata { s with host := rest })))) ∧
        (p.we = false → step s = .next (moved (answered rest
          (some { rdata := some (busRead p.addr.toNat { s with host := rest }).1, err := false })
          (busRead p.addr.toNat { s with host := rest }).2)))))

/-- 10_state R26, R47, 00_scope R11: the cycle in which a host with BUSY = 0 writes `v` to CMD starts
the command `v`, legal or not, and, if the host makes no access meanwhile, it completes as many cycles
later as its LAT. The LAT is at least 1, and one more than the head of the list if there is one
(log 3); how it counts is DEDUCED (log 1). -/
def Obligations.CmdWriteInACycleRunsTheCommand : Prop :=
  ∀ (s : State) (v : Word) (rest : List HostOp),
    s.busy = false → s.host = .cycle (writePins 0x000 v) :: rest →
    ∃ u, step s = .next u ∧ 1 ≤ u.remaining ∧
      u = { s with
        pending := v
        busy := true
        done := false
        remaining := u.remaining
        latencies := u.latencies
        draws := u.draws
        host := rest
        response := some { rdata := none, err := false } } ∧
      (∀ n lats, s.latencies = n :: lats → u.remaining = n + 1 ∧ u.latencies = lats) ∧
      ∀ t, rest = [] → CompletesTo { u with remaining := 0, response := none } t →
        Host.Core.run Sys2Proof.core (1 + u.remaining) s = .next t

/-- 00_scope R11, 60_exceptions R192, R194: a command, legal or not, with `n + 1` cycles to go keeps
BUSY = 1 and changes nothing for `n` cycles, and its whole effect is in the cycle after them (no
access meanwhile). How the cycles are counted is DEDUCED (log 1). -/
def Obligations.CommandCompletesAfterItsLatency : Prop :=
  ∀ (n : Nat) (s t : State),
    s.busy = true → s.remaining = n + 1 → s.host = [] →
    CompletesTo { s with remaining := 0, response := none } t →
    (∀ k, 1 ≤ k → k ≤ n →
      Host.Core.run Sys2Proof.core k s
        = .next { s with remaining := n + 1 - k, response := none }) ∧
    Host.Core.run Sys2Proof.core (n + 1) s = .next t

/-- 30_encoding R81, 20_memory R61, 60_exceptions R194: the host's `wait` goes on only after the
completion edge: with `n + 1` cycles of the command, legal or not, to go it polls `n + 1` times with
BUSY = 1 and once more, with the command's effects in place and BUSY = 0. That the poll of the
completion cycle reads BUSY = 1 is DEDUCED (log 12). -/
def Obligations.WaitEndsAfterCompletion : Prop :=
  ∀ (n : Nat) (s t : State) (rest : List HostOp),
    s.busy = true → s.remaining = n + 1 → s.host = .poll :: rest →
    CompletesTo { s with
      remaining := 0
      response := some { rdata := some (statusWord s), err := false } } t →
    (statusWord s).getLsbD 0 = true ∧ (statusWord t).getLsbD 0 = false ∧
    Host.Core.run Sys2Proof.core (n + 1) s = .next t ∧
    Host.Core.run Sys2Proof.core (n + 2) s
      = .next { t with
          host := rest
          response := some { rdata := some (statusWord t), err := false } }

/-- 10_state R48: while BUSY = 1 the locked registers keep their value and WERR is set; writes to
STATUS and IRQ_EN are accepted whatever the value of BUSY (R24, R25), and what they change. -/
def Obligations.BusyLocksOperandsAndSetsWerr : Prop :=
  ∀ (s : State) (v : Word),
    (s.busy = true → ∀ off, off % 4 = 0 →
      (off = 0x000 ∨ off = 0x010 ∨ off = 0x014 ∨ off = 0x018 ∨ (0x030 ≤ off ∧ off ≤ 0x04F) ∨
       off = 0x090 ∨ off = 0x094 ∨ off = 0x098 ∨ (0x0A0 ≤ off ∧ off ≤ 0x0D3) ∨
       (0x0E0 ≤ off ∧ off ≤ 0x0EF) ∨ (0x100 ≤ off ∧ off ≤ 0x1FF)) →
      busWrite off v s = { s with werr := true }) ∧
    busWrite 0x004 v s =
      { s with done := s.done && !v.getLsbD 1, werr := s.werr && !v.getLsbD 8 } ∧
    busWrite 0x008 v s = { s with doneIe := v.getLsbD 0 }

/-- 10_state R23: reserved offsets read 0 and ignore writes, read-only registers ignore writes, so
do the read-only bits of the other registers, none of this sets WERR, and CMD reads 0. -/
def Obligations.ReadOnlyAndReservedIgnoreWrites : Prop :=
  (∀ (s : State) (off : Nat), off % 4 = 0 →
    (off = 0x00C ∨ off = 0x01C ∨ off = 0x02C ∨ off = 0x06C ∨ off = 0x09C ∨ off = 0x0DC ∨
     (0x300 ≤ off ∧ off ≤ 0x3FF)) →
    busRead off s = (0, s) ∧ ∀ v, busWrite off v s = s) ∧
  (∀ (s : State) (off : Nat) (v : Word), off % 4 = 0 →
    (off = 0x020 ∨ off = 0x024 ∨ off = 0x028 ∨ (0x050 ≤ off ∧ off ≤ 0x08F ∧ off ≠ 0x06C) ∨
     off = 0x0D4 ∨ off = 0x0D8 ∨ (0x0F0 ≤ off ∧ off ≤ 0x0FF) ∨ (0x200 ≤ off ∧ off ≤ 0x2FF)) →
    busWrite off v s = s) ∧
  (∀ (s : State) (v : Word),
    busWrite 0x004 v s = busWrite 0x004 (v &&& 0x00000102) s ∧
    busWrite 0x008 v s = busWrite 0x008 (v &&& 0x00000001) s ∧
    busWrite 0x090 v s = busWrite 0x090 (v &&& 0x000000FF) s ∧
    busWrite 0x094 v s = busWrite 0x094 (v &&& 0x00FFFFFF) s ∧
    busWrite 0x0D0 v s = busWrite 0x0D0 (v &&& 0x0000FFFF) s) ∧
  (∀ s : State, busRead 0x000 s = (0, s))

/-- 10_state R27 to R40, 20_memory R52, R53: with no command running, a writable word reads back
what was written to its writable bits, and every other word of the window reads as before. -/
def Obligations.WriteThenReadWord : Prop :=
  ∀ (s : State) (off : Nat) (v : Word), s.busy = false → off % 4 = 0 →
    (off = 0x010 ∨ off = 0x014 ∨ off = 0x018 ∨ (0x030 ≤ off ∧ off ≤ 0x04F) ∨
     off = 0x090 ∨ off = 0x094 ∨ off = 0x098 ∨ (0x0A0 ≤ off ∧ off ≤ 0x0D3) ∨
     (0x0E0 ≤ off ∧ off ≤ 0x0EF) ∨ (0x100 ≤ off ∧ off ≤ 0x1FF)) →
    (busRead off (busWrite off v s)).1 =
      v &&& (if off = 0x090 then 0x000000FF else if off = 0x094 then 0x00FFFFFF
        else if off = 0x0D0 then 0x0000FFFF else 0xFFFFFFFF) ∧
    ∀ off', off' % 4 = 0 → off' ≤ 0x3FF → off' ≠ off →
      (busRead off' (busWrite off v s)).1 = (busRead off' s).1

/-- 10_state R49, with the model's form of a free draw (log 7): while BUSY = 1 an output-side
register reads as a fresh free value, and the input side reads its stored value, with nothing drawn. -/
def Obligations.BusyReadsAreFreeOnTheOutputSideOnly : Prop :=
  ∀ (s : State), s.busy = true →
    (∀ off, off % 4 = 0 →
      (off = 0x020 ∨ off = 0x024 ∨ off = 0x028 ∨ (0x050 ≤ off ∧ off ≤ 0x0BF ∧ off ≠ 0x06C ∧
        off ≠ 0x09C) ∨ off = 0x0D4 ∨ off = 0x0D8 ∨ (0x0F0 ≤ off ∧ off ≤ 0x0FF) ∨
        (0x200 ≤ off ∧ off ≤ 0x2FF)) →
      busRead off s = (Config.busyRead s.draws, { s with draws := s.draws + 1 })) ∧
    busRead 0x004 s = (statusWord s, s) ∧ busRead 0x008 s = (irqEnWord s, s) ∧
    busRead 0x010 s = (s.arg0, s) ∧ busRead 0x014 s = (s.arg1, s) ∧ busRead 0x018 s = (s.arg2, s) ∧
    busRead 0x0D0 s = (s.devnonce.setWidth 32, s) ∧
    (∀ k, k < 4 →
      busRead (0x030 + 4 * k) s = (s.key.extractLsb' (32 * k) 32, s) ∧
      busRead (0x040 + 4 * k) s = (s.blkIn.extractLsb' (32 * k) 32, s) ∧
      busRead (0x0E0 + 4 * k) s = (s.appkey.extractLsb' (32 * k) 32, s)) ∧
    (∀ k, k < 2 →
      busRead (0x0C0 + 4 * k) s = (s.appeui.extractLsb' (32 * k) 32, s) ∧
      busRead (0x0C8 + 4 * k) s = (s.deveui.extractLsb' (32 * k) 32, s)) ∧
    (∀ k, k < 64 →
      busRead (0x100 + 4 * k) s =
        (byteOf s (0x103 + 4 * k) ++ byteOf s (0x102 + 4 * k) ++ byteOf s (0x101 + 4 * k)
          ++ byteOf s (0x100 + 4 * k), s))

/-- 10_state R22 to R40, 20_memory R52, R61: with no command running, a read of each register of the
window gives that register, of each word of a wide one those of its bits, and of each word of a buffer
its four bytes, least significant first; it changes nothing. -/
def Obligations.IdleReadsGiveTheNamedRegister : Prop :=
  ∀ s : State, s.busy = false →
    (busRead 0x000 s = (0, s) ∧ busRead 0x004 s = (statusWord s, s) ∧
      busRead 0x008 s = (irqEnWord s, s)) ∧
    (busRead 0x010 s = (s.arg0, s) ∧ busRead 0x014 s = (s.arg1, s) ∧ busRead 0x018 s = (s.arg2, s)) ∧
    (busRead 0x020 s = (s.res0, s) ∧ busRead 0x024 s = (s.res1, s) ∧ busRead 0x028 s = (s.res2, s)) ∧
    (busRead 0x060 s = (sessCfgWord s, s) ∧ busRead 0x064 s = (s.sessNetid.setWidth 32, s) ∧
      busRead 0x068 s = (s.sessDevaddr, s)) ∧
    (busRead 0x090 s = (s.stgFmt.setWidth 32, s) ∧ busRead 0x094 s = (s.stgNetid.setWidth 32, s) ∧
      busRead 0x098 s = (s.stgDevaddr, s)) ∧
    (busRead 0x0D0 s = (s.devnonce.setWidth 32, s) ∧
      busRead 0x0D4 s = (s.jaAppnonce.setWidth 32, s) ∧ busRead 0x0D8 s = (s.jaInfo, s)) ∧
    (∀ k, k < 4 →
      busRead (0x030 + 4 * k) s = (s.key.extractLsb' (32 * k) 32, s) ∧
      busRead (0x040 + 4 * k) s = (s.blkIn.extractLsb' (32 * k) 32, s) ∧
      busRead (0x050 + 4 * k) s = (s.blkOut.extractLsb' (32 * k) 32, s) ∧
      busRead (0x070 + 4 * k) s = (s.sessNwkskey.extractLsb' (32 * k) 32, s) ∧
      busRead (0x080 + 4 * k) s = (s.sessAppskey.extractLsb' (32 * k) 32, s) ∧
      busRead (0x0A0 + 4 * k) s = (s.stgNwkskey.extractLsb' (32 * k) 32, s) ∧
      busRead (0x0B0 + 4 * k) s = (s.stgAppskey.extractLsb' (32 * k) 32, s) ∧
      busRead (0x0E0 + 4 * k) s = (s.appkey.extractLsb' (32 * k) 32, s) ∧
      busRead (0x0F0 + 4 * k) s = (s.jaCflist.extractLsb' (32 * k) 32, s)) ∧
    (∀ k, k < 2 →
      busRead (0x0C0 + 4 * k) s = (s.appeui.extractLsb' (32 * k) 32, s) ∧
      busRead (0x0C8 + 4 * k) s = (s.deveui.extractLsb' (32 * k) 32, s)) ∧
    (∀ k, k < 128 →
      busRead (0x100 + 4 * k) s =
        (byteOf s (0x103 + 4 * k) ++ byteOf s (0x102 + 4 * k) ++ byteOf s (0x101 + 4 * k)
          ++ byteOf s (0x100 + 4 * k), s))

/-- 10_state R22 to R40, 20_memory R52: with no command running, an accepted write stores into the
register its offset names, the low bits if the register is narrower, into one word of a wide one, and
into the four bytes of a word of IBUF, least significant first; nothing else changes. -/
def Obligations.IdleWritesStoreIntoTheNamedRegister : Prop :=
  ∀ (s : State) (v : Word), s.busy = false →
    (busWrite 0x010 v s = { s with arg0 := v } ∧ busWrite 0x014 v s = { s with arg1 := v } ∧
      busWrite 0x018 v s = { s with arg2 := v } ∧
      busWrite 0x090 v s = { s with stgFmt := v.extractLsb' 0 8 } ∧
      busWrite 0x094 v s = { s with stgNetid := v.extractLsb' 0 24 } ∧
      busWrite 0x098 v s = { s with stgDevaddr := v } ∧
      busWrite 0x0D0 v s = { s with devnonce := v.extractLsb' 0 16 }) ∧
    (∀ k, k < 4 →
      let stored := fun (x y : Block) => ∀ j, j < 4 →
        y.extractLsb' (32 * j) 32 = if j = k then v else x.extractLsb' (32 * j) 32
      (∃ y, busWrite (0x030 + 4 * k) v s = { s with key := y } ∧ stored s.key y) ∧
      (∃ y, busWrite (0x040 + 4 * k) v s = { s with blkIn := y } ∧ stored s.blkIn y) ∧
      (∃ y, busWrite (0x0A0 + 4 * k) v s = { s with stgNwkskey := y } ∧ stored s.stgNwkskey y) ∧
      (∃ y, busWrite (0x0B0 + 4 * k) v s = { s with stgAppskey := y } ∧ stored s.stgAppskey y) ∧
      (∃ y, busWrite (0x0E0 + 4 * k) v s = { s with appkey := y } ∧ stored s.appkey y)) ∧
    (∀ k, k < 2 →
      let stored := fun (x y : BitVec 64) => ∀ j, j < 2 →
        y.extractLsb' (32 * j) 32 = if j = k then v else x.extractLsb' (32 * j) 32
      (∃ y, busWrite (0x0C0 + 4 * k) v s = { s with appeui := y } ∧ stored s.appeui y) ∧
      (∃ y, busWrite (0x0C8 + 4 * k) v s = { s with deveui := y } ∧ stored s.deveui y)) ∧
    (∀ k, k < 64 →
      ∃ m, busWrite (0x100 + 4 * k) v s = { s with mem := m } ∧
        ∀ a, byteOf { s with mem := m } a =
          if 0x100 + 4 * k ≤ a ∧ a < 0x104 + 4 * k then v.extractLsb' (8 * (a - (0x100 + 4 * k))) 8
          else byteOf s a)

/-- 10_state R24, R25, R33: the bits of STATUS, IRQ_EN and SESS_CFG as they read; every bit not
named is 0. -/
def Obligations.StatusWordsReadTheirFields : Prop :=
  ∀ s : State,
    ((statusWord s).getLsbD 0 = s.busy ∧ (statusWord s).getLsbD 1 = s.done ∧
      (statusWord s).extractLsb' 4 4 = s.result ∧ (statusWord s).getLsbD 8 = s.werr ∧
      (statusWord s).getLsbD 16 = s.sessValid ∧
      statusWord s &&& 0xFFFEFE0C = 0) ∧
    irqEnWord s = (if s.doneIe then 1 else 0) ∧
    ((sessCfgWord s).extractLsb' 0 8 = s.sessFmt ∧ (sessCfgWord s).getLsbD 16 = s.sessValid ∧
      sessCfgWord s &&& 0xFFFEFF00 = 0)

/-- 10_state R24, 60_exceptions R194, R198: a write that clears DONE in the cycle of a completion, of
a command or of an illegal word, loses; a clearing of WERR in that cycle takes effect (the latter
DEDUCED, log 12). -/
def Obligations.CompletionWinsOverClearingDone : Prop :=
  ∀ (s : State) (v : Word) (rest : List HostOp),
    s.busy = true → s.remaining ≤ 1 → s.host = .cycle (writePins 0x004 v) :: rest →
    ∃ t, step s = .next t ∧ t.done = true ∧ t.busy = false ∧ t.werr = (s.werr && !v.getLsbD 8)

/-- 10_state R45, 60_exceptions R197, R198: irq is DONE and DONE_IE; a completion raises it exactly
when it is enabled, enabling it later raises it at once, clearing DONE or starting a command drops
it, and a write of STATUS with bit 1 clear leaves it. -/
def Obligations.IrqFollowsDoneAndEnable : Prop :=
  (∀ s : State, irq s = true ↔ s.done = true ∧ s.doneIe = true) ∧
  (∀ (i : Instr) (s : State), ∃ t, exec i s = .next t ∧ irq t = s.doneIe) ∧
  (∀ (s : State) (v : Word), irq (busWrite 0x008 v s) = (s.done && v.getLsbD 0)) ∧
  (∀ (s : State) (v : Word), irq (busWrite 0x004 v s) = (irq s && !v.getLsbD 1)) ∧
  (∀ (s : State) (v : Word), s.busy = false → irq (busWrite 0x000 v s) = false)

/-- 70_reset_and_hazards R210, R212: a cycle with `rst = 1` leaves the state of R211 whatever was
running and whatever access the pins make; the host, the parameters and the model's counters go
on (log 14). That the reset wins in a command's last cycle too is DEDUCED (log 13). -/
def Obligations.ResetCycleGivesTheResetState : Prop :=
  ∀ s : State, (currentPins s).rst = true →
    ∃ t, step s = .next t ∧ irq t = false ∧
      t = { State.reset with
        host := s.host.tail
        latencies := s.latencies
        draws := s.draws
        fill := s.fill + 1
        cfg := s.cfg }

/-- 70_reset_and_hazards R211: the reset value of every register; nothing is written in IBUF and
OBUF, whose unwritten bytes are free values (log 6). -/
def Obligations.ResetValuesOfTheRegisters : Prop :=
  let s := State.reset
  s.pending = 0 ∧ statusWord s = 0 ∧ irqEnWord s = 0 ∧
  s.arg0 = 0 ∧ s.arg1 = 0 ∧ s.arg2 = 0 ∧ s.res0 = 0 ∧ s.res1 = 0 ∧ s.res2 = 0 ∧
  s.key = 0 ∧ s.blkIn = 0 ∧ s.blkOut = 0 ∧
  sessCfgWord s = 0 ∧ s.sessNetid = 0 ∧ s.sessDevaddr = 0 ∧ s.sessNwkskey = 0 ∧ s.sessAppskey = 0 ∧
  s.stgFmt = 0 ∧ s.stgNetid = 0 ∧ s.stgDevaddr = 0 ∧ s.stgNwkskey = 0 ∧ s.stgAppskey = 0 ∧
  s.appeui = 0 ∧ s.deveui = 0 ∧ s.devnonce = 0 ∧ s.appkey = 0 ∧
  s.jaAppnonce = 0 ∧ s.jaInfo = 0 ∧ s.jaCflist = 0 ∧
  (∀ a, s.mem.find a = none) ∧ irq s = false ∧ s.busy = false

/-- 20_memory R51: the model refuses exactly a cycle without reset whose access is not an aligned
word access, and says the hardware's answer to it; no step faults. The refusal's form is the
model's (log 8, 11). -/
def Obligations.OnlyUnsupportedAccessesStopTheModel : Prop :=
  (∀ (s : State) (r : Refusal),
    step s = .refused r ↔
      (currentPins s).rst = false ∧ (currentPins s).sel = true ∧
      ((currentPins s).size ≠ 2 ∨ (currentPins s).addr.toNat % 4 ≠ 0) ∧
      r = .unsupportedAccess 0 true) ∧
  (∀ (s : State) (f : Fault), step s ≠ .fault f)

/-- A host that makes only aligned word accesses is never refused, and stays such a host. -/
def Obligations.WordAccessHostNeverStops : Prop :=
  ∀ s : State, HostOk s → ∃ t, step s = .next t ∧ HostOk t

/-! ### AES (40_aes) -/

/-- 40_aes R98: encoding, effect, frame and the rule's two examples. -/
def Obligations.AesEncWritesTheCiphertext : Prop :=
  decode 0x00000001 = .command .aesEnc ∧
  (∀ s : State, exec .aesEnc s = .next (ended 0 { s with blkOut := aesEncrypt s.key s.blkIn })) ∧
  aesEncrypt 0 0 = bytesBlock [0x66, 0xE9, 0x4B, 0xD4, 0xEF, 0x8A, 0x2C, 0x3B, 0x88, 0x4C, 0xFA,
    0x59, 0xCA, 0x34, 0x2B, 0x2E] ∧
  aesEncrypt (bytesBlock [0x00, 0x01, 0x02, 0x03, 0x04, 0x05, 0x06, 0x07, 0x08, 0x09, 0x0A, 0x0B,
      0x0C, 0x0D, 0x0E, 0x0F])
    (bytesBlock [0x00, 0x11, 0x22, 0x33, 0x44, 0x55, 0x66, 0x77, 0x88, 0x99, 0xAA, 0xBB, 0xCC, 0xDD,
      0xEE, 0xFF])
    = bytesBlock [0x69, 0xC4, 0xE0, 0xD8, 0x6A, 0x7B, 0x04, 0x30, 0xD8, 0xCD, 0xB7, 0x80, 0x70, 0xB4,
      0xC5, 0x5A]

/-- 40_aes R99: encoding, effect, frame, the rule's two examples, and AES_ENC after it under the same
key, with BLK_IN set to the result, gives the original block back. -/
def Obligations.AesDecWritesThePlaintext : Prop :=
  decode 0x00000002 = .command .aesDec ∧
  (∀ s : State, exec .aesDec s = .next (ended 0 { s with blkOut := aesDecrypt s.key s.blkIn })) ∧
  (∀ s t u : State, exec .aesDec s = .next t → exec .aesEnc { t with blkIn := t.blkOut } = .next u →
    u.blkOut = s.blkIn) ∧
  aesDecrypt 0 0 = bytesBlock [0x14, 0x0F, 0x0F, 0x10, 0x11, 0xB5, 0x22, 0x3D, 0x79, 0x58, 0x77,
    0x17, 0xFF, 0xD9, 0xEC, 0x3A] ∧
  aesDecrypt (bytesBlock [0x00, 0x01, 0x02, 0x03, 0x04, 0x05, 0x06, 0x07, 0x08, 0x09, 0x0A, 0x0B,
      0x0C, 0x0D, 0x0E, 0x0F])
    (bytesBlock [0x69, 0xC4, 0xE0, 0xD8, 0x6A, 0x7B, 0x04, 0x30, 0xD8, 0xCD, 0xB7, 0x80, 0x70, 0xB4,
      0xC5, 0x5A])
    = bytesBlock [0x00, 0x11, 0x22, 0x33, 0x44, 0x55, 0x66, 0x77, 0x88, 0x99, 0xAA, 0xBB, 0xCC, 0xDD,
      0xEE, 0xFF]

/-- 40_aes R97, last sentence: the two ciphers under one key are inverse to each other. -/
def Obligations.AesCiphersAreInverse : Prop :=
  ∀ k b : Block, aesDecrypt k (aesEncrypt k b) = b ∧ aesEncrypt k (aesDecrypt k b) = b

/-- 40_aes R91: `xtime` is doubling modulo 0x11B; the product has unit 1, is additive in its second
factor and commutes with `xtime` there (which fixes it on every byte); the rule's examples. -/
def Obligations.GfMulIsTheFieldProduct : Prop :=
  (∀ b : Byte, (xtime b).toNat = if b.toNat < 128 then 2 * b.toNat else (2 * b.toNat) ^^^ 0x11B) ∧
  (∀ a b c : Byte, gfMul a 1 = a ∧ gfMul a (b ^^^ c) = gfMul a b ^^^ gfMul a c ∧
    gfMul a (xtime b) = xtime (gfMul a b)) ∧
  xtime 0x57 = 0xAE ∧ gfMul 0x57 0x83 = 0xC1 ∧ gfMul 0x57 0x13 = 0xFE

/-- 40_aes R92: the S-box table is the affine map of the multiplicative inverse, with 0 for the
inverse of 0. -/
def Obligations.SboxIsAffineOfTheInverse : Prop :=
  ∀ x : Byte, ∃ y : Byte, (x = 0 → y = 0) ∧ (x ≠ 0 → gfMul x y = 1) ∧
    ∀ i, i < 8 → (sbox x).getLsbD i =
      (y.getLsbD i ^^ y.getLsbD ((i + 4) % 8) ^^ y.getLsbD ((i + 5) % 8) ^^
        y.getLsbD ((i + 6) % 8) ^^ y.getLsbD ((i + 7) % 8) ^^ (0x63 : Byte).getLsbD i)

/-- 40_aes R93: the inverse S-box table is the inverse permutation of the S-box. -/
def Obligations.InvSboxInvertsSbox : Prop :=
  ∀ x : Byte, invSbox (sbox x) = x ∧ sbox (invSbox x) = x

/-- 40_aes R94: the 44 words of the key schedule, by the recurrence, with Rcon, the round keys and the
columns they are added to, and the rule's example. -/
def Obligations.KeyScheduleFollowsTheRecurrence : Prop :=
  (∀ key : Block,
    let w := fun i : Nat => (keyExpansion key).getD i ⟨0, 0, 0, 0⟩
    (keyExpansion key).length = 44 ∧
    (∀ i, i < 4 → w i = ⟨byteAt (blockBytes key) (4 * i), byteAt (blockBytes key) (4 * i + 1),
      byteAt (blockBytes key) (4 * i + 2), byteAt (blockBytes key) (4 * i + 3)⟩) ∧
    (∀ i, 4 ≤ i → i < 44 → i % 4 ≠ 0 → w i = (w (i - 4)).xor (w (i - 1))) ∧
    (∀ i, 4 ≤ i → i < 44 → i % 4 = 0 →
      w i = (w (i - 4)).xor (AesWord.xor
        ⟨sbox (w (i - 1)).b1, sbox (w (i - 1)).b2, sbox (w (i - 1)).b3, sbox (w (i - 1)).b0⟩
        ⟨byteAt [0x01, 0x02, 0x04, 0x08, 0x10, 0x20, 0x40, 0x80, 0x1B, 0x36] (i / 4 - 1), 0, 0, 0⟩)) ∧
    (∀ n, n ≤ 10 →
      roundKey (keyExpansion key) n = ⟨w (4 * n), w (4 * n + 1), w (4 * n + 2), w (4 * n + 3)⟩ ∧
      ∀ st : AesState, addRoundKey (roundKey (keyExpansion key) n) st =
        ⟨st.c0.xor (w (4 * n)), st.c1.xor (w (4 * n + 1)), st.c2.xor (w (4 * n + 2)),
          st.c3.xor (w (4 * n + 3))⟩)) ∧
  (let w := keyExpansion (bytesBlock [0x2B, 0x7E, 0x15, 0x16, 0x28, 0xAE, 0xD2, 0xA6, 0xAB, 0xF7,
      0x15, 0x88, 0x09, 0xCF, 0x4F, 0x3C])
   w.getD 4 ⟨0, 0, 0, 0⟩ = ⟨0xA0, 0xFA, 0xFE, 0x17⟩ ∧
   w.getD 43 ⟨0, 0, 0, 0⟩ = ⟨0xB6, 0x63, 0x0C, 0xA6⟩)

/-! ### Masking and MIC (41_mask_mic) -/

/-- 41_mask_mic R118: encoding, effect on an index 0 to 255 with the A-block written out,
FORMAT_ERROR beyond, frame, and the rule's example. -/
def Obligations.MaskWritesOneKeystreamBlock : Prop :=
  decode 0x00000003 = .command .mask ∧
  (∀ s : State, (s.arg0.extractLsb' 0 9).toNat ≤ 255 →
    exec .mask s = .next (ended 0 { s with
      blkOut := aesEncrypt s.key (bytesBlock (
        [0x01, 0, 0, 0, 0, (s.arg0.extractLsb' 12 1).setWidth 8] ++ wireWord s.arg2 ++
          wireHalf (s.arg0.extractLsb' 16 16) ++ [0, 0, 0, s.arg0.extractLsb' 0 8])) })) ∧
  (∀ s : State, 255 < (s.arg0.extractLsb' 0 9).toNat → exec .mask s = .next (ended 1 s)) ∧
  aesEncrypt 0 (bytesBlock [0x01, 0, 0, 0, 0, 0, 0x04, 0x03, 0x02, 0x01, 0, 0, 0, 0, 0, 0x01])
    = bytesBlock [0x36, 0xA9, 0xEE, 0xEB, 0xE6, 0xF0, 0x66, 0x95, 0xA8, 0x63, 0x86, 0x9B, 0xDC, 0xC1,
      0x13, 0x3E]

/-- 41_mask_mic R119: encoding, effect on 0 to 256 bytes, LENGTH_ERROR beyond, frame, and the rule's
example. The MIC word is the first four bytes of the tag, least significant first. -/
def Obligations.CmacWritesTagAndMicWord : Prop :=
  decode 0x00000004 = .command .cmac ∧
  (∀ s : State, (s.arg0.extractLsb' 0 9).toNat ≤ 256 →
    let tag := cmac s.key (ibuf s 0 (s.arg0.extractLsb' 0 9).toNat)
    exec .cmac s = .next (ended 0 { s with blkOut := tag, res0 := tag.extractLsb' 0 32 })) ∧
  (∀ s : State, 256 < (s.arg0.extractLsb' 0 9).toNat → exec .cmac s = .next (ended 3 s)) ∧
  (let tag := cmac (bytesBlock [0x2B, 0x7E, 0x15, 0x16, 0x28, 0xAE, 0xD2, 0xA6, 0xAB, 0xF7, 0x15,
      0x88, 0x09, 0xCF, 0x4F, 0x3C]) []
   tag = bytesBlock [0xBB, 0x1D, 0x69, 0x29, 0xE9, 0x59, 0x37, 0x28, 0x7F, 0xA3, 0x7D, 0x12, 0x9B,
      0x75, 0x67, 0x46] ∧ tag.extractLsb' 0 32 = 0x29691DBB)

/-- 41_mask_mic R120: encoding, effect on 0 to 255 bytes with the B0 block written out,
LENGTH_ERROR beyond, frame, and the rule's example. -/
def Obligations.DataMicWritesMicWord : Prop :=
  decode 0x00000005 = .command .dataMic ∧
  (∀ s : State, (s.arg0.extractLsb' 0 9).toNat ≤ 255 →
    exec .dataMic s = .next (ended 0 { s with
      res0 := (cmac s.key (
        [0x49, 0, 0, 0, 0, (s.arg0.extractLsb' 12 1).setWidth 8] ++ wireWord s.arg2 ++
          wireHalf (s.arg0.extractLsb' 16 16) ++ [0, 0, 0, s.arg0.extractLsb' 0 8] ++
          ibuf s 0 (s.arg0.extractLsb' 0 9).toNat)).extractLsb' 0 32 })) ∧
  (∀ s : State, 255 < (s.arg0.extractLsb' 0 9).toNat → exec .dataMic s = .next (ended 3 s)) ∧
  (cmac 0 [0x49, 0, 0, 0, 0, 0, 0x04, 0x03, 0x02, 0x01, 0, 0, 0, 0, 0, 0x08,
      0x40, 0x04, 0x03, 0x02, 0x01, 0, 0, 0]).extractLsb' 0 32 = 0x0D61D350

/-- 41_mask_mic R113, R114: the subkeys by doubling big-endian integers, and the tag of a message
cut into whole blocks and a last block of 1 to 16 bytes, and of the empty message; the MIC is the
first four bytes of the tag. -/
def Obligations.CmacIsTheChainedCipher : Prop :=
  ∀ key : Block,
    let be := fun x : Block => fromLE (blockBytes x).reverse
    let k1 := (cmacSubkeys key).1
    let k2 := (cmacSubkeys key).2
    let double := fun n : Nat => ((2 * n) % 2 ^ 128) ^^^ (if 2 ^ 127 ≤ n then 0x87 else 0)
    be k1 = double (be (aesEncrypt key 0)) ∧ be k2 = double (be k1) ∧
    (∀ m : List Byte, cmacMic key m = slice (blockBytes (cmac key m)) 0 4) ∧
    cmac key [] = aesEncrypt key (bytesBlock (0x80 :: zeros 15) ^^^ k2) ∧
    ∀ (blocks : List Block) (last : List Byte), 1 ≤ last.length → last.length ≤ 16 →
      cmac key (blocks.flatMap blockBytes ++ last) =
        aesEncrypt key (blocks.foldl (fun x b => aesEncrypt key (x ^^^ b)) 0 ^^^
          (if last.length = 16 then bytesBlock last ^^^ k1
           else bytesBlock (last ++ [0x80] ++ zeros (15 - last.length)) ^^^ k2))

/-- 41_mask_mic R116: the MIC word of four bytes, and back. -/
def Obligations.MicWordIsLittleEndian : Prop :=
  ∀ t0 t1 t2 t3 : Byte,
    (micWord [t0, t1, t2, t3]).toNat
      = t0.toNat + t1.toNat * 2 ^ 8 + t2.toNat * 2 ^ 16 + t3.toNat * 2 ^ 24 ∧
    le 4 (micWord [t0, t1, t2, t3]).toNat = [t0, t1, t2, t3]

/-- 41_mask_mic R117: masking keeps the length, adds to byte `j` byte `j mod 16` of the keystream
block with index `j / 16 + 1`, whose A-block is written out, and is its own inverse; a string of at most
242 bytes needs at most 16 keystream blocks. (The index byte of a longer string is taken mod 256.) -/
def Obligations.MaskingIsSelfInverse : Prop :=
  ∀ (key : Block) (d : BitVec 1) (a : Word) (f : BitVec 16) (p : List Byte),
    (maskBytes key d a f p).length = p.length ∧
    (∀ j, j < p.length →
      byteAt (maskBytes key d a f p) j = byteAt p j ^^^
        (aesEncrypt key (bytesBlock ([0x01, 0, 0, 0, 0, d.setWidth 8] ++ wireWord a ++ wireHalf f ++
          [0, 0, 0, BitVec.ofNat 8 (j / 16 + 1)]))).extractLsb' (8 * (j % 16)) 8) ∧
    maskBytes key d a f (maskBytes key d a f p) = p ∧
    (p.length ≤ 242 → (p.length + 15) / 16 ≤ 16)

/-! ### The frame serializer (42_frame) -/

/-- 42_frame R135, 60_exceptions R191, R193: the five checks of COMPOSE in order, for a session
whose format is supported; each failure changes BUSY, DONE and RESULT only. -/
def Obligations.ComposeChecksInOrder : Prop :=
  ∀ s : State,
    let pl := (s.arg0.extractLsb' 0 9).toNat
    let fl := (s.arg1.extractLsb' 0 5).toNat
    let t := (s.arg1.extractLsb' 8 3).toNat
    (s.sessValid = false → exec .compose s = .next (ended 4 s)) ∧
    (s.sessValid = true → ¬ (2 ≤ t ∧ t ≤ 5) → exec .compose s = .next (ended 1 s)) ∧
    (∀ m, s.sessValid = true → 2 ≤ t → t ≤ 5 → maxplOf s.cfg s.sessFmt = some m →
      (m < pl → exec .compose s = .next (ended 3 s)) ∧
      (pl ≤ m → 15 < fl → exec .compose s = .next (ended 3 s)) ∧
      (pl ≤ m → fl ≤ 15 → 255 < (if pl = 0 then 12 + fl else 13 + fl + pl) →
        exec .compose s = .next (ended 3 s)))

/-- 42_frame R130, R134, R135, R140, R141: COMPOSE that passes its checks writes the frame, byte for
byte, and its length; nothing else changes. -/
def Obligations.ComposeWritesTheFrame : Prop :=
  ∀ (s : State) (m : Nat),
    let pl := (s.arg0.extractLsb' 0 9).toNat
    let f := s.arg0.extractLsb' 16 16
    let fl := (s.arg1.extractLsb' 0 5).toNat
    let t := s.arg1.extractLsb' 8 3
    let port := s.arg1.extractLsb' 16 8
    let len := if pl = 0 then 12 + fl else 13 + fl + pl
    s.sessValid = true → 2 ≤ t.toNat → t.toNat ≤ 5 → maxplOf s.cfg s.sessFmt = some m →
    pl ≤ m → fl ≤ 15 → len ≤ 255 →
    let d := t.extractLsb' 0 1
    let hdr := [t ++ (0 : BitVec 5)] ++ wireWord s.sessDevaddr ++
      [s.arg1.extractLsb' 12 4 ++ s.arg1.extractLsb' 0 4] ++ wireHalf f ++ ibuf s 0 fl ++
      (if pl = 0 then [] else [port])
    let plain := ibuf s fl (fl + pl)
    let masked := maskBytes (if port = 0 then s.sessNwkskey else s.sessAppskey) d s.sessDevaddr f plain
    let mic := dataMic s.sessNwkskey d s.sessDevaddr f
      (hdr ++ (match s.cfg.micInput with | .wire => masked | .plain => plain))
    (hdr ++ masked ++ mic).length = len ∧
    ∃ u, exec .compose s = .next u ∧
      u = ended 0 { s with mem := u.mem, res0 := BitVec.ofNat 32 len } ∧
      ObufHolds (hdr ++ masked ++ mic) s u

/-- 42_frame R136, R137, 60_exceptions R191, R193: the checks of DECODE before the MIC, in order,
and those of GET_ADDRESS and GET_HEADER, which are the same without the session; each failure
changes BUSY, DONE and RESULT only. -/
def Obligations.ParseChecksInOrder : Prop :=
  ∀ s : State,
    let n := (s.arg0.extractLsb' 0 9).toNat
    let t := ((byteOf s 0x100).extractLsb' 5 3).toNat
    let fl := ((byteOf s 0x105).extractLsb' 0 4).toNat
    (s.sessValid = false → exec .decode s = .next (ended 4 s)) ∧
    ∀ i, (i = .decode ∧ s.sessValid = true) ∨ i = .getAddress ∨ i = .getHeader →
      (n < 12 ∨ 255 < n → exec i s = .next (ended 3 s)) ∧
      (12 ≤ n → n ≤ 255 → ¬ (2 ≤ t ∧ t ≤ 5) → exec i s = .next (ended 4 s)) ∧
      (12 ≤ n → n ≤ 255 → 2 ≤ t → t ≤ 5 → n < 12 + fl → exec i s = .next (ended 4 s))

/-- 42_frame R137: DECODE of a frame that parses: MIC_ERROR and nothing else if the MIC differs;
otherwise options and unmasked payload to OBUF and the header to RES0..2, and nothing else. -/
def Obligations.DecodeVerifiesAndUnmasks : Prop :=
  ∀ s : State,
    let n := (s.arg0.extractLsb' 0 9).toNat
    let b := ibuf s 0 n
    let t := (byteAt b 0).extractLsb' 5 3
    let fl := ((byteAt b 5).extractLsb' 0 4).toNat
    s.sessValid = true → 12 ≤ n → n ≤ 255 → 2 ≤ t.toNat → t.toNat ≤ 5 → 12 + fl ≤ n →
    let a := byteAt b 4 ++ byteAt b 3 ++ byteAt b 2 ++ byteAt b 1
    let f := byteAt b 7 ++ byteAt b 6
    let d := t.extractLsb' 0 1
    let hasPort := decide (13 + fl ≤ n)
    let port := if hasPort then byteAt b (8 + fl) else 0
    let pl := n - 13 - fl
    let masked := slice b (9 + fl) (n - 4)
    let plain := maskBytes (if port = 0 then s.sessNwkskey else s.sessAppskey) d a f masked
    let mic := dataMic s.sessNwkskey d a f
      (match s.cfg.micInput with
        | .wire => slice b 0 (n - 4)
        | .plain => slice b 0 (n - 4 - pl) ++ plain)
    (mic ≠ slice b (n - 4) n → exec .decode s = .next (ended 2 s)) ∧
    (mic = slice b (n - 4) n →
      ∃ u, exec .decode s = .next u ∧
        u = ended 0 { s with mem := u.mem, res0 := u.res0, res1 := u.res1, res2 := a } ∧
        HeaderRes0 u.res0 pl hasPort f ∧ HeaderRes1 u.res1 (byteAt b 5) port (byteAt b 0) ∧
        ObufHolds (slice b 8 (8 + fl) ++ plain) s u)

/-- 42_frame R138, R139: a frame that parses gives its address, and its header fields, whatever its
MIC and with no session; nothing else changes. -/
def Obligations.PartialDecodesReportTheHeader : Prop :=
  decode 0x00000012 = .command .getAddress ∧ decode 0x00000013 = .command .getHeader ∧
  ∀ s : State,
    let n := (s.arg0.extractLsb' 0 9).toNat
    let t := ((byteOf s 0x100).extractLsb' 5 3).toNat
    let fl := ((byteOf s 0x105).extractLsb' 0 4).toNat
    12 ≤ n → n ≤ 255 → 2 ≤ t → t ≤ 5 → 12 + fl ≤ n →
    let a := byteOf s 0x104 ++ byteOf s 0x103 ++ byteOf s 0x102 ++ byteOf s 0x101
    let hasPort := decide (13 + fl ≤ n)
    exec .getAddress s = .next (ended 0 { s with res2 := a }) ∧
    ∃ u, exec .getHeader s = .next u ∧
      u = ended 0 { s with res0 := u.res0, res1 := u.res1, res2 := a } ∧
      HeaderRes0 u.res0 (n - 13 - fl) hasPort (byteOf s 0x107 ++ byteOf s 0x106) ∧
      HeaderRes1 u.res1 (byteOf s 0x105) (if hasPort then byteOf s (0x108 + fl) else 0)
        (byteOf s 0x100)

/-- 42_frame R142, which the spec marks as its own inference: a frame that COMPOSE made, decoded
under the same session keys and MIC_INPUT, gives back options, payload, arguments and address, with
NO_ERROR. -/
def Obligations.DecodeOfComposeRoundTrips : Prop :=
  ∀ (s u v : State),
    let pl := (s.arg0.extractLsb' 0 9).toNat
    let fl := (s.arg1.extractLsb' 0 5).toNat
    exec .compose s = .next u → u.result = 0 →
    v.sessValid = true → v.sessNwkskey = s.sessNwkskey → v.sessAppskey = s.sessAppskey →
    v.cfg.micInput = s.cfg.micInput →
    v.arg0.extractLsb' 0 9 = u.res0.extractLsb' 0 9 →
    (∀ k, k < u.res0.toNat → byteOf v (0x100 + k) = byteOf u (0x200 + k)) →
    ∃ w, exec .decode v = .next w ∧ w.result = 0 ∧
      (∀ k, k < fl + pl → byteOf w (0x200 + k) = byteOf s (0x100 + k)) ∧
      (w.res0.extractLsb' 0 9).toNat = pl ∧
      w.res0.extractLsb' 16 16 = s.arg0.extractLsb' 16 16 ∧
      w.res0.getLsbD 12 = decide (1 ≤ pl) ∧
      w.res1.extractLsb' 0 24 =
        s.arg1.extractLsb' 0 24 &&& (if pl = 0 then 0x00F70F else 0xFFF70F) ∧
      w.res2 = s.sessDevaddr

/-! ### The join (43_join) -/

/-- 43_join R150, R151: encoding, the 23 bytes in OBUF, RES0 = 23, for every MTYPE; nothing else
changes; the rule's example. -/
def Obligations.JoinReqWritesTheRequest : Prop :=
  decode 0x00000020 = .command .joinReq ∧
  ∀ s : State,
    let m := [s.arg1.extractLsb' 8 3 ++ (0 : BitVec 5)] ++
      wireWord (s.appeui.extractLsb' 0 32) ++ wireWord (s.appeui.extractLsb' 32 32) ++
      wireWord (s.deveui.extractLsb' 0 32) ++ wireWord (s.deveui.extractLsb' 32 32) ++
      wireHalf s.devnonce
    let frame := m ++ wireWord ((cmac s.appkey m).extractLsb' 0 32)
    frame.length = 23 ∧
    (∃ u, exec .joinReq s = .next u ∧ u = ended 0 { s with mem := u.mem, res0 := 23 } ∧
      ObufHolds frame s u) ∧
    (s.appkey = bytesBlock [0x00, 0x01, 0x02, 0x03, 0x04, 0x05, 0x06, 0x07, 0x08, 0x09, 0x0A, 0x0B,
        0x0C, 0x0D, 0x0E, 0x0F] → s.appeui = 0x70B3D57ED0000001 → s.deveui = 0x0004A30B001C0530 →
      s.devnonce = 0x1234 → s.arg1.extractLsb' 8 3 = 0 →
      frame = [0x00, 0x01, 0x00, 0x00, 0xD0, 0x7E, 0xD5, 0xB3, 0x70, 0x30, 0x05, 0x1C, 0x00, 0x0B,
        0xA3, 0x04, 0x00, 0x34, 0x12, 0xAB, 0x50, 0xF9, 0xEE])

/-- 43_join R152 to R156: the length check, then the MIC check, then the outputs of JOIN_ACCEPT,
and nothing else; in particular the session and STG_FMT are not written. -/
def Obligations.JoinAcceptVerifiesAndDerives : Prop :=
  decode 0x00000021 = .command .joinAccept ∧
  ∀ s : State,
    let n := (s.arg0.extractLsb' 0 9).toNat
    (n ≠ 17 → n ≠ 33 → exec .joinAccept s = .next (ended 3 s)) ∧
    (n = 17 ∨ n = 33 →
      let b := ibuf s 0 n
      let cipher := fun x : Block =>
        match s.cfg.jaUnwrap with | .dec => aesDecrypt s.appkey x | .enc => aesEncrypt s.appkey x
      let p := [byteAt b 0] ++ blockBytes (cipher (bytesBlock (slice b 1 17))) ++
        (if n = 33 then blockBytes (cipher (bytesBlock (slice b 17 33))) else [])
      let mic := (blockBytes (cmac s.appkey (slice p 0 (n - 4)))).take 4
      let key := fun tag : Byte => aesEncrypt s.appkey
        (bytesBlock ([tag] ++ slice p 1 7 ++ wireHalf s.devnonce ++ [0, 0, 0, 0, 0, 0, 0]))
      (mic ≠ slice p (n - 4) n → exec .joinAccept s = .next (ended 2 s)) ∧
      (mic = slice p (n - 4) n →
        ∃ u, exec .joinAccept s = .next u ∧
          u = ended 0 { s with
            mem := u.mem
            jaInfo := u.jaInfo
            stgNwkskey := key 0x01
            stgAppskey := key 0x02
            jaAppnonce := byteAt p 3 ++ byteAt p 2 ++ byteAt p 1
            stgNetid := byteAt p 6 ++ byteAt p 5 ++ byteAt p 4
            stgDevaddr := byteAt p 10 ++ byteAt p 9 ++ byteAt p 8 ++ byteAt p 7
            jaCflist := if n = 33 then bytesBlock (slice p 13 29) else 0
            res0 := BitVec.ofNat 32 n } ∧
          (u.jaInfo.extractLsb' 0 8 = byteAt p 11 ∧ u.jaInfo.extractLsb' 8 8 = byteAt p 12 ∧
            u.jaInfo.getLsbD 16 = decide (n = 33) ∧ u.jaInfo.extractLsb' 17 3 = 0 ∧
            u.jaInfo.extractLsb' 20 3 = (byteAt p 11).extractLsb' 4 3 ∧
            u.jaInfo.getLsbD 23 = false ∧
            u.jaInfo.extractLsb' 24 4 = (byteAt p 11).extractLsb' 0 4 ∧
            u.jaInfo.extractLsb' 28 4 = (byteAt p 12).extractLsb' 0 4) ∧
          ObufHolds p s u))

/-- 43_join R157: the two keys a join derives differ, whatever the frame and the key, and they
depend only on APPKEY, the six bytes of nonce and network id, and DEVNONCE. -/
def Obligations.JoinKeysDifferAndAreDetermined : Prop :=
  (∀ s t : State, exec .joinAccept s = .next t → t.result = 0 → t.stgNwkskey ≠ t.stgAppskey) ∧
  (∀ s s' t t' : State, exec .joinAccept s = .next t → exec .joinAccept s' = .next t' →
    t.result = 0 → t'.result = 0 → s.appkey = s'.appkey → s.devnonce = s'.devnonce →
    t.jaAppnonce = t'.jaAppnonce → t.stgNetid = t'.stgNetid →
    t.stgNwkskey = t'.stgNwkskey ∧ t.stgAppskey = t'.stgAppskey)

/-! ### Session and classifier (44_session_classify) -/

/-- 44_session_classify R170: encoding, the copy as a unit, FORMAT_ERROR with the session kept, and
nothing else; SESS_CFG and STATUS as they read after a success, and the rule's example. -/
def Obligations.SessionLoadCopiesTheStaging : Prop :=
  decode 0x00000030 = .command .sessionLoad ∧
  (∀ (s : State) (m : Nat), maxplOf s.cfg s.stgFmt = some m →
    ∃ t, exec .sessionLoad s = .next t ∧ (statusWord t).getLsbD 16 = true ∧
      sessCfgWord t = s.stgFmt.setWidth 32 ||| 0x00010000 ∧
      (s.stgFmt = 1 → s.werr = false → sessCfgWord t = 0x00010001 ∧ statusWord t = 0x00010002) ∧
      t = ended 0 { s with
        sessFmt := s.stgFmt
        sessValid := true
        sessNetid := s.stgNetid
        sessDevaddr := s.stgDevaddr
        sessNwkskey := s.stgNwkskey
        sessAppskey := s.stgAppskey }) ∧
  (∀ s : State, maxplOf s.cfg s.stgFmt = none → exec .sessionLoad s = .next (ended 1 s))

/-- 44_session_classify R171: encoding, the pre-join state and nothing else, SESS_CFG and STATUS as
they read after it; with no active session nothing but the completion is seen; COMPOSE and DECODE
after it fail with HEADER_ERROR. -/
def Obligations.SessionClearReturnsToPreJoin : Prop :=
  decode 0x00000031 = .command .sessionClear ∧
  ∀ s : State, ∃ t, exec .sessionClear s = .next t ∧
    (s.werr = false → sessCfgWord t = 0 ∧ statusWord t = 0x00000002) ∧
    (SessionOk s → s.sessValid = false → t = ended 0 s) ∧
    t = ended 0 { s with
      sessFmt := 0
      sessValid := false
      sessNetid := 0
      sessDevaddr := 0
      sessNwkskey := 0
      sessAppskey := 0 } ∧
    exec .compose t = .next (ended 4 t) ∧ exec .decode t = .next (ended 4 t)

/-- 44_session_classify R172 to R175: both classifiers on every MTYPE, reserved and other bits of
ARG1 ignored; only RES0 and STATUS change. -/
def Obligations.ClassifiersFollowTheTables : Prop :=
  decode 0x00000040 = .command .getDirection ∧ decode 0x00000041 = .command .ackRequest ∧
  ∀ s : State,
    let t := (s.arg1.toNat / 256) % 8
    exec .getDirection s = .next (ended 0 { s with
      res0 := if t = 1 ∨ t = 3 ∨ t = 5 then 1 else 0 }) ∧
    exec .ackRequest s = .next (ended 0 { s with res0 := if t = 4 ∨ t = 5 then 1 else 0 })

/-- 44_session_classify R176: MAX_PAYLOAD with a session of a supported format reports its value,
at most 242; with none, FORMAT_ERROR. Only RES0 and STATUS change. -/
def Obligations.MaxPayloadReportsTheCeiling : Prop :=
  decode 0x00000042 = .command .maxPayload ∧
  (∀ (s : State) (m : Nat), s.sessValid = true → maxplOf s.cfg s.sessFmt = some m →
    ∃ t, exec .maxPayload s = .next t ∧ t = ended 0 { s with res0 := t.res0 } ∧
      t.res0.toNat = m ∧ m ≤ 242) ∧
  (∀ s : State, s.sessValid = false → exec .maxPayload s = .next (ended 1 s))

/-! ### The whole machine -/

/-- Every clock cycle keeps the invariant: canonical memory, a legal result code, a sound engine,
a session all set or all unset with a supported format, a well-formed JA_INFO. The memory's form
and the count of cycles are the model's (log 1, 6). -/
def Obligations.StepKeepsTheInvariant : Prop :=
  ∀ s t : State, Inv s → step s = .next t → Inv t

/-- The invariant holds at reset (its parts that are the model's: log 1, 6). -/
def Obligations.ResetHasTheInvariant : Prop := Inv State.reset

/-- 60_exceptions R192: every command, in every state, ends in one completion step: BUSY = 0,
DONE = 1, RESULT one of the produced codes, and the flags DONE_IE, WERR and the command latch kept. -/
def Obligations.EveryCommandCompletes : Prop :=
  ∀ (i : Instr) (s : State), ∃ t, exec i s = .next t ∧ t.busy = false ∧ t.done = true ∧
    ResultLegal t ∧ t.result ≠ 15 ∧ t.doneIe = s.doneIe ∧ t.werr = s.werr ∧ t.pending = s.pending

/-- 60_exceptions R195: a command that ends with an error leaves everything but BUSY, DONE and
RESULT as it was. -/
def Obligations.FailedCommandsChangeOnlyStatus : Prop :=
  ∀ (i : Instr) (s t : State), exec i s = .next t → t.result ≠ 0 → SameButStatus s t

/-- 10_state R32: only SESSION_LOAD, SESSION_CLEAR and reset change the session registers. -/
def Obligations.OnlySessionCommandsChangeTheSession : Prop :=
  ∀ s t : State, step s = .next t →
    (t.sessFmt = s.sessFmt ∧ t.sessValid = s.sessValid ∧ t.sessNetid = s.sessNetid ∧
      t.sessDevaddr = s.sessDevaddr ∧ t.sessNwkskey = s.sessNwkskey ∧
      t.sessAppskey = s.sessAppskey) ∨
    (currentPins s).rst = true ∨
    (s.busy = true ∧ s.remaining ≤ 1 ∧
      (decode s.pending = .command .sessionLoad ∨ decode s.pending = .command .sessionClear))

/-- 10_state R41: only COMPOSE, DECODE, JOIN_REQ and JOIN_ACCEPT write a buffer, they write OBUF and
only its first L bytes, for the length L they state. -/
def Obligations.CommandsWriteOnlyTheirObufPrefix : Prop :=
  ∀ (i : Instr) (s t : State), exec i s = .next t →
    (i ≠ .compose → i ≠ .decode → i ≠ .joinReq → i ≠ .joinAccept → t.mem = s.mem) ∧
    (t.result ≠ 0 → t.mem = s.mem) ∧
    obufWritten i t ≤ (if t.result = 0 then 255 else obufWritten i t) ∧
    ∀ a, byteOf t a ≠ byteOf s a → 0x200 ≤ a ∧ a < 0x200 + obufWritten i t

/-- 20_memory R64: bytes of IBUF beyond those a command's rule names do not affect its result. -/
def Obligations.OnlyNamedIbufBytesMatter : Prop :=
  ∀ (i : Instr) (s t : State) (m : Memory),
    (∀ a, byteOf { s with mem := m } a ≠ byteOf s a → 0x100 + ibufRead i s ≤ a ∧ a ≤ 0x1FF) →
    exec i s = .next t →
    ∃ u, exec i { s with mem := m } = .next u ∧ u = { t with mem := u.mem } ∧
      ∀ a, byteOf u a ≠ byteOf t a → 0x100 + ibufRead i s ≤ a ∧ a ≤ 0x1FF

/-- 10_state R43, R48, 20_memory R63: while a command runs, no cycle without reset changes the
command or any operand it reads, whatever the host writes. In the completion cycle this is DEDUCED
(log 12), and that the parameters are kept is the model's (log 4, 5). -/
def Obligations.OperandsAreStableWhileBusy : Prop :=
  ∀ s t : State, s.busy = true → (currentPins s).rst = false → step s = .next t →
    t.pending = s.pending ∧ t.arg0 = s.arg0 ∧ t.arg1 = s.arg1 ∧ t.arg2 = s.arg2 ∧ t.key = s.key ∧
    t.blkIn = s.blkIn ∧ t.stgFmt = s.stgFmt ∧ t.appeui = s.appeui ∧ t.deveui = s.deveui ∧
    t.devnonce = s.devnonce ∧ t.appkey = s.appkey ∧ t.cfg = s.cfg ∧
    (∀ a, 0x100 ≤ a → a ≤ 0x1FF → byteOf t a = byteOf s a) ∧
    (t.busy = true → t.stgNetid = s.stgNetid ∧ t.stgDevaddr = s.stgDevaddr ∧
      t.stgNwkskey = s.stgNwkskey ∧ t.stgAppskey = s.stgAppskey)
end

