-- ==== Sys2Proof/Laws/Aes.lean ====
section
/-! SUPPORT. The 4x4 state and the 16-byte block are the same 128 bits (40_aes R90), and the steps of
the cipher that undo themselves or each other by their form (40_aes R95). -/

namespace Sys2Proof.Machine

theorem loadBlock_unloadBlock (s : AesState) : loadBlock (unloadBlock s) = s := by
  obtain ⟨⟨a0, a1, a2, a3⟩, ⟨b0, b1, b2, b3⟩, ⟨c0, c1, c2, c3⟩, ⟨d0, d1, d2, d3⟩⟩ := s
  simp only [loadBlock, unloadBlock, AesWord.bits, AesState.mk.injEq, AesWord.mk.injEq]
  refine ⟨⟨?_, ?_, ?_, ?_⟩, ⟨?_, ?_, ?_, ?_⟩, ⟨?_, ?_, ?_, ?_⟩, ?_, ?_, ?_, ?_⟩ <;>
  · apply BitVec.eq_of_getLsbD_eq
    intro k hk
    simp only [BitVec.getLsbD_extractLsb', hk, decide_true, Bool.true_and, BitVec.getLsbD_append]
    repeat' (first | rw [if_pos (by omega)] | rw [if_neg (by omega)])
    exact congrArg _ (by omega)

theorem unloadBlock_loadBlock (x : Block) : unloadBlock (loadBlock x) = x := by
  apply BitVec.eq_of_getLsbD_eq
  intro k hk
  simp only [loadBlock, unloadBlock, AesWord.bits, BitVec.getLsbD_append, BitVec.getLsbD_extractLsb']
  repeat' split
  all_goals
    rw [decide_eq_true (by omega), Bool.true_and]
    exact congrArg _ (by omega)

theorem addRoundKey_addRoundKey (k s : AesState) : addRoundKey k (addRoundKey k s) = s := by
  have h : ∀ v w : AesWord, (v.xor w).xor w = v := by
    rintro ⟨a, b, c, d⟩ ⟨e, f, g, h⟩
    simp [AesWord.xor]
  simp only [addRoundKey, h]

theorem invShiftRows_shiftRows (s : AesState) : invShiftRows (shiftRows s) = s := rfl

theorem shiftRows_invShiftRows (s : AesState) : shiftRows (invShiftRows s) = s := rfl

end Sys2Proof.Machine
end

