-- ==== Sys2Proof/Laws/Bytes.lean ====
section
/-! SUPPORT. Byte strings: little-endian encodings, blocks and slices (00_scope R16, 10_state R29). -/

namespace Sys2Proof.Machine

@[simp] theorem le_length (n v : Nat) : (le n v).length = n := by
  induction n generalizing v with
  | zero => rfl
  | succ n ih => simp [le, ih]

@[simp] theorem zeros_length (n : Nat) : (zeros n).length = n := by simp [zeros]

theorem fromLE_lt (b : List Byte) : fromLE b < 256 ^ b.length := by
  induction b with
  | nil => simp [fromLE]
  | cons x b ih =>
    have hx := x.isLt
    simp only [fromLE, List.length_cons, Nat.pow_succ]
    omega

theorem fromLE_append (b c : List Byte) : fromLE (b ++ c) = fromLE b + 256 ^ b.length * fromLE c := by
  induction b with
  | nil => simp [fromLE]
  | cons x b ih => simp only [List.cons_append, fromLE, ih, List.length_cons, Nat.pow_succ]; ring

/-- `le_n` undoes `from_le`. -/
theorem le_fromLE (b : List Byte) : le b.length (fromLE b) = b := by
  induction b with
  | nil => rfl
  | cons x b ih =>
    have hx := x.isLt
    have h1 : (x.toNat + 256 * fromLE b) / 256 = fromLE b := by omega
    have h2 : BitVec.ofNat 8 (x.toNat + 256 * fromLE b) = x := by
      apply BitVec.eq_of_toNat_eq; simp only [BitVec.toNat_ofNat]; omega
    simp only [List.length_cons, le, fromLE, h1, h2, ih]

/-- `from_le` undoes `le_n`, modulo the width. -/
theorem fromLE_le (n v : Nat) : fromLE (le n v) = v % 256 ^ n := by
  induction n generalizing v with
  | zero => simp [le, fromLE, Nat.mod_one]
  | succ n ih =>
    have h : 256 ^ (n + 1) = 256 * 256 ^ n := by rw [Nat.pow_succ, Nat.mul_comm]
    rw [le, fromLE, ih, BitVec.toNat_ofNat, h, Nat.mod_mul]

/-- Byte `i` of `le_n(v)` is `v[8i+7:8i]` (00_scope R16). -/
theorem byteAt_le {n i : Nat} (v : Nat) (h : i < n) : byteAt (le n v) i = BitVec.ofNat 8 (v / 256 ^ i) := by
  induction n generalizing v i with
  | zero => omega
  | succ n ih =>
    cases i with
    | zero => simp [le, byteAt]
    | succ i =>
      have := ih (v / 256) (i := i) (by omega)
      simp only [byteAt, le, List.getD_cons_succ] at this ⊢
      rw [this, Nat.div_div_eq_div_mul, Nat.pow_succ, Nat.mul_comm 256]

theorem ofNat_div_256 {w : Nat} (x : BitVec w) (i : Nat) :
    BitVec.ofNat 8 (x.toNat / 256 ^ i) = x.extractLsb' (8 * i) 8 := by
  apply BitVec.eq_of_toNat_eq
  have : (256 : Nat) ^ i = 2 ^ (8 * i) := by rw [Nat.pow_mul]
  simp [BitVec.extractLsb'_toNat, Nat.shiftRight_eq_div_pow, this]

@[simp] theorem blockBytes_length (x : Block) : (blockBytes x).length = 16 := by simp [blockBytes]

/-- Byte `i` of a 128-bit register is its bits `[8i+7:8i]` (10_state R29). -/
theorem byteAt_blockBytes (x : Block) {i : Nat} (h : i < 16) :
    byteAt (blockBytes x) i = x.extractLsb' (8 * i) 8 := by
  rw [blockBytes, byteAt_le _ h, ofNat_div_256]

@[simp] theorem bytesBlock_blockBytes (x : Block) : bytesBlock (blockBytes x) = x := by
  apply BitVec.eq_of_toNat_eq
  have := x.isLt
  simp only [bytesBlock, blockBytes, fromLE_le, BitVec.toNat_ofNat]
  omega

theorem blockBytes_bytesBlock {b : List Byte} (h : b.length = 16) : blockBytes (bytesBlock b) = b := by
  have h1 := fromLE_lt b
  rw [h] at h1
  have h2 : (bytesBlock b).toNat = fromLE b := by
    simp only [bytesBlock, BitVec.toNat_ofNat]; exact Nat.mod_eq_of_lt (by simpa using h1)
  rw [blockBytes, h2, ← h, le_fromLE]

@[simp] theorem slice_length (b : List Byte) (i j : Nat) :
    (slice b i j).length = min (j - i) (b.length - i) := by simp [slice]

theorem byteAt_eq_getElem (b : List Byte) {i : Nat} (h : i < b.length) : byteAt b i = b[i] := by
  simp [byteAt, h]

theorem byteAt_append (b c : List Byte) (i : Nat) :
    byteAt (b ++ c) i = if i < b.length then byteAt b i else byteAt c (i - b.length) := by
  unfold byteAt
  split
  · rename_i h; exact List.getD_append _ _ _ _ h
  · rename_i h; exact List.getD_append_right _ _ _ _ (Nat.le_of_not_lt h)

theorem byteAt_slice (b : List Byte) {i j k : Nat} (h : k < j - i) :
    byteAt (slice b i j) k = byteAt b (i + k) := by
  simp [byteAt, slice, List.getD_eq_getElem?_getD, h, List.getElem?_drop]

/-- Byte strings of one length are equal when their bytes are. -/
theorem bytes_ext {b c : List Byte} (hl : b.length = c.length)
    (h : ∀ i, i < b.length → byteAt b i = byteAt c i) : b = c := by
  apply List.ext_getElem hl
  intro i h1 h2
  have := h i h1
  rwa [byteAt_eq_getElem b h1, byteAt_eq_getElem c h2] at this

theorem slice_append_slice (b : List Byte) {i j k : Nat} (h1 : i ≤ j) (h2 : j ≤ k) :
    slice b i j ++ slice b j k = slice b i k := by
  unfold slice
  have : b.drop j = (b.drop i).drop (j - i) := by rw [List.drop_drop]; congr 1; omega
  rw [this, ← List.take_add]; congr 1; omega

end Sys2Proof.Machine
end

