-- ==== Sys2Proof/Laws/State.lean ====
section
/-! SUPPORT. One lemma per field and named update of State, so that no proof unfolds an update. -/

namespace Sys2Proof.Machine

variable (s : State)

@[simp] theorem finish_eq : finish s = complete .noError s := rfl
@[simp] theorem raiseResult_eq (code : ResultCode) : raiseResult code s = complete code s := rfl

/-! ### complete -/

@[simp] theorem complete_pending (code : ResultCode) : (complete code s).pending = s.pending := rfl
@[simp] theorem complete_busy (code : ResultCode) : (complete code s).busy = false := rfl
@[simp] theorem complete_done (code : ResultCode) : (complete code s).done = true := rfl
@[simp] theorem complete_result (code : ResultCode) : (complete code s).result = resultBits code := rfl
@[simp] theorem complete_werr (code : ResultCode) : (complete code s).werr = s.werr := rfl
@[simp] theorem complete_doneIe (code : ResultCode) : (complete code s).doneIe = s.doneIe := rfl
@[simp] theorem complete_arg0 (code : ResultCode) : (complete code s).arg0 = s.arg0 := rfl
@[simp] theorem complete_arg1 (code : ResultCode) : (complete code s).arg1 = s.arg1 := rfl
@[simp] theorem complete_arg2 (code : ResultCode) : (complete code s).arg2 = s.arg2 := rfl
@[simp] theorem complete_res0 (code : ResultCode) : (complete code s).res0 = s.res0 := rfl
@[simp] theorem complete_res1 (code : ResultCode) : (complete code s).res1 = s.res1 := rfl
@[simp] theorem complete_res2 (code : ResultCode) : (complete code s).res2 = s.res2 := rfl
@[simp] theorem complete_key (code : ResultCode) : (complete code s).key = s.key := rfl
@[simp] theorem complete_blkIn (code : ResultCode) : (complete code s).blkIn = s.blkIn := rfl
@[simp] theorem complete_blkOut (code : ResultCode) : (complete code s).blkOut = s.blkOut := rfl
@[simp] theorem complete_sessFmt (code : ResultCode) : (complete code s).sessFmt = s.sessFmt := rfl
@[simp] theorem complete_sessValid (code : ResultCode) : (complete code s).sessValid = s.sessValid := rfl
@[simp] theorem complete_sessNetid (code : ResultCode) : (complete code s).sessNetid = s.sessNetid := rfl
@[simp] theorem complete_sessDevaddr (code : ResultCode) : (complete code s).sessDevaddr = s.sessDevaddr := rfl
@[simp] theorem complete_sessNwkskey (code : ResultCode) : (complete code s).sessNwkskey = s.sessNwkskey := rfl
@[simp] theorem complete_sessAppskey (code : ResultCode) : (complete code s).sessAppskey = s.sessAppskey := rfl
@[simp] theorem complete_stgFmt (code : ResultCode) : (complete code s).stgFmt = s.stgFmt := rfl
@[simp] theorem complete_stgNetid (code : ResultCode) : (complete code s).stgNetid = s.stgNetid := rfl
@[simp] theorem complete_stgDevaddr (code : ResultCode) : (complete code s).stgDevaddr = s.stgDevaddr := rfl
@[simp] theorem complete_stgNwkskey (code : ResultCode) : (complete code s).stgNwkskey = s.stgNwkskey := rfl
@[simp] theorem complete_stgAppskey (code : ResultCode) : (complete code s).stgAppskey = s.stgAppskey := rfl
@[simp] theorem complete_appeui (code : ResultCode) : (complete code s).appeui = s.appeui := rfl
@[simp] theorem complete_deveui (code : ResultCode) : (complete code s).deveui = s.deveui := rfl
@[simp] theorem complete_devnonce (code : ResultCode) : (complete code s).devnonce = s.devnonce := rfl
@[simp] theorem complete_appkey (code : ResultCode) : (complete code s).appkey = s.appkey := rfl
@[simp] theorem complete_jaAppnonce (code : ResultCode) : (complete code s).jaAppnonce = s.jaAppnonce := rfl
@[simp] theorem complete_jaInfo (code : ResultCode) : (complete code s).jaInfo = s.jaInfo := rfl
@[simp] theorem complete_jaCflist (code : ResultCode) : (complete code s).jaCflist = s.jaCflist := rfl
@[simp] theorem complete_mem (code : ResultCode) : (complete code s).mem = s.mem := rfl
@[simp] theorem complete_response (code : ResultCode) : (complete code s).response = s.response := rfl
@[simp] theorem complete_remaining (code : ResultCode) : (complete code s).remaining = s.remaining := rfl
@[simp] theorem complete_host (code : ResultCode) : (complete code s).host = s.host := rfl
@[simp] theorem complete_latencies (code : ResultCode) : (complete code s).latencies = s.latencies := rfl
@[simp] theorem complete_draws (code : ResultCode) : (complete code s).draws = s.draws := rfl
@[simp] theorem complete_fill (code : ResultCode) : (complete code s).fill = s.fill := rfl
@[simp] theorem complete_cfg (code : ResultCode) : (complete code s).cfg = s.cfg := rfl

/-! ### storeObuf -/

@[simp] theorem storeObuf_pending (b : List Byte) : (storeObuf b s).pending = s.pending := rfl
@[simp] theorem storeObuf_busy (b : List Byte) : (storeObuf b s).busy = s.busy := rfl
@[simp] theorem storeObuf_done (b : List Byte) : (storeObuf b s).done = s.done := rfl
@[simp] theorem storeObuf_result (b : List Byte) : (storeObuf b s).result = s.result := rfl
@[simp] theorem storeObuf_werr (b : List Byte) : (storeObuf b s).werr = s.werr := rfl
@[simp] theorem storeObuf_doneIe (b : List Byte) : (storeObuf b s).doneIe = s.doneIe := rfl
@[simp] theorem storeObuf_arg0 (b : List Byte) : (storeObuf b s).arg0 = s.arg0 := rfl
@[simp] theorem storeObuf_arg1 (b : List Byte) : (storeObuf b s).arg1 = s.arg1 := rfl
@[simp] theorem storeObuf_arg2 (b : List Byte) : (storeObuf b s).arg2 = s.arg2 := rfl
@[simp] theorem storeObuf_res0 (b : List Byte) : (storeObuf b s).res0 = s.res0 := rfl
@[simp] theorem storeObuf_res1 (b : List Byte) : (storeObuf b s).res1 = s.res1 := rfl
@[simp] theorem storeObuf_res2 (b : List Byte) : (storeObuf b s).res2 = s.res2 := rfl
@[simp] theorem storeObuf_key (b : List Byte) : (storeObuf b s).key = s.key := rfl
@[simp] theorem storeObuf_blkIn (b : List Byte) : (storeObuf b s).blkIn = s.blkIn := rfl
@[simp] theorem storeObuf_blkOut (b : List Byte) : (storeObuf b s).blkOut = s.blkOut := rfl
@[simp] theorem storeObuf_sessFmt (b : List Byte) : (storeObuf b s).sessFmt = s.sessFmt := rfl
@[simp] theorem storeObuf_sessValid (b : List Byte) : (storeObuf b s).sessValid = s.sessValid := rfl
@[simp] theorem storeObuf_sessNetid (b : List Byte) : (storeObuf b s).sessNetid = s.sessNetid := rfl
@[simp] theorem storeObuf_sessDevaddr (b : List Byte) : (storeObuf b s).sessDevaddr = s.sessDevaddr := rfl
@[simp] theorem storeObuf_sessNwkskey (b : List Byte) : (storeObuf b s).sessNwkskey = s.sessNwkskey := rfl
@[simp] theorem storeObuf_sessAppskey (b : List Byte) : (storeObuf b s).sessAppskey = s.sessAppskey := rfl
@[simp] theorem storeObuf_stgFmt (b : List Byte) : (storeObuf b s).stgFmt = s.stgFmt := rfl
@[simp] theorem storeObuf_stgNetid (b : List Byte) : (storeObuf b s).stgNetid = s.stgNetid := rfl
@[simp] theorem storeObuf_stgDevaddr (b : List Byte) : (storeObuf b s).stgDevaddr = s.stgDevaddr := rfl
@[simp] theorem storeObuf_stgNwkskey (b : List Byte) : (storeObuf b s).stgNwkskey = s.stgNwkskey := rfl
@[simp] theorem storeObuf_stgAppskey (b : List Byte) : (storeObuf b s).stgAppskey = s.stgAppskey := rfl
@[simp] theorem storeObuf_appeui (b : List Byte) : (storeObuf b s).appeui = s.appeui := rfl
@[simp] theorem storeObuf_deveui (b : List Byte) : (storeObuf b s).deveui = s.deveui := rfl
@[simp] theorem storeObuf_devnonce (b : List Byte) : (storeObuf b s).devnonce = s.devnonce := rfl
@[simp] theorem storeObuf_appkey (b : List Byte) : (storeObuf b s).appkey = s.appkey := rfl
@[simp] theorem storeObuf_jaAppnonce (b : List Byte) : (storeObuf b s).jaAppnonce = s.jaAppnonce := rfl
@[simp] theorem storeObuf_jaInfo (b : List Byte) : (storeObuf b s).jaInfo = s.jaInfo := rfl
@[simp] theorem storeObuf_jaCflist (b : List Byte) : (storeObuf b s).jaCflist = s.jaCflist := rfl
@[simp] theorem storeObuf_mem (b : List Byte) : (storeObuf b s).mem = s.mem.writeBytes obufBase b := rfl
@[simp] theorem storeObuf_response (b : List Byte) : (storeObuf b s).response = s.response := rfl
@[simp] theorem storeObuf_remaining (b : List Byte) : (storeObuf b s).remaining = s.remaining := rfl
@[simp] theorem storeObuf_host (b : List Byte) : (storeObuf b s).host = s.host := rfl
@[simp] theorem storeObuf_latencies (b : List Byte) : (storeObuf b s).latencies = s.latencies := rfl
@[simp] theorem storeObuf_draws (b : List Byte) : (storeObuf b s).draws = s.draws := rfl
@[simp] theorem storeObuf_fill (b : List Byte) : (storeObuf b s).fill = s.fill := rfl
@[simp] theorem storeObuf_cfg (b : List Byte) : (storeObuf b s).cfg = s.cfg := rfl

/-! ### setWerr -/

@[simp] theorem setWerr_pending : (setWerr s).pending = s.pending := rfl
@[simp] theorem setWerr_busy : (setWerr s).busy = s.busy := rfl
@[simp] theorem setWerr_done : (setWerr s).done = s.done := rfl
@[simp] theorem setWerr_result : (setWerr s).result = s.result := rfl
@[simp] theorem setWerr_werr : (setWerr s).werr = true := rfl
@[simp] theorem setWerr_doneIe : (setWerr s).doneIe = s.doneIe := rfl
@[simp] theorem setWerr_arg0 : (setWerr s).arg0 = s.arg0 := rfl
@[simp] theorem setWerr_arg1 : (setWerr s).arg1 = s.arg1 := rfl
@[simp] theorem setWerr_arg2 : (setWerr s).arg2 = s.arg2 := rfl
@[simp] theorem setWerr_res0 : (setWerr s).res0 = s.res0 := rfl
@[simp] theorem setWerr_res1 : (setWerr s).res1 = s.res1 := rfl
@[simp] theorem setWerr_res2 : (setWerr s).res2 = s.res2 := rfl
@[simp] theorem setWerr_key : (setWerr s).key = s.key := rfl
@[simp] theorem setWerr_blkIn : (setWerr s).blkIn = s.blkIn := rfl
@[simp] theorem setWerr_blkOut : (setWerr s).blkOut = s.blkOut := rfl
@[simp] theorem setWerr_sessFmt : (setWerr s).sessFmt = s.sessFmt := rfl
@[simp] theorem setWerr_sessValid : (setWerr s).sessValid = s.sessValid := rfl
@[simp] theorem setWerr_sessNetid : (setWerr s).sessNetid = s.sessNetid := rfl
@[simp] theorem setWerr_sessDevaddr : (setWerr s).sessDevaddr = s.sessDevaddr := rfl
@[simp] theorem setWerr_sessNwkskey : (setWerr s).sessNwkskey = s.sessNwkskey := rfl
@[simp] theorem setWerr_sessAppskey : (setWerr s).sessAppskey = s.sessAppskey := rfl
@[simp] theorem setWerr_stgFmt : (setWerr s).stgFmt = s.stgFmt := rfl
@[simp] theorem setWerr_stgNetid : (setWerr s).stgNetid = s.stgNetid := rfl
@[simp] theorem setWerr_stgDevaddr : (setWerr s).stgDevaddr = s.stgDevaddr := rfl
@[simp] theorem setWerr_stgNwkskey : (setWerr s).stgNwkskey = s.stgNwkskey := rfl
@[simp] theorem setWerr_stgAppskey : (setWerr s).stgAppskey = s.stgAppskey := rfl
@[simp] theorem setWerr_appeui : (setWerr s).appeui = s.appeui := rfl
@[simp] theorem setWerr_deveui : (setWerr s).deveui = s.deveui := rfl
@[simp] theorem setWerr_devnonce : (setWerr s).devnonce = s.devnonce := rfl
@[simp] theorem setWerr_appkey : (setWerr s).appkey = s.appkey := rfl
@[simp] theorem setWerr_jaAppnonce : (setWerr s).jaAppnonce = s.jaAppnonce := rfl
@[simp] theorem setWerr_jaInfo : (setWerr s).jaInfo = s.jaInfo := rfl
@[simp] theorem setWerr_jaCflist : (setWerr s).jaCflist = s.jaCflist := rfl
@[simp] theorem setWerr_mem : (setWerr s).mem = s.mem := rfl
@[simp] theorem setWerr_response : (setWerr s).response = s.response := rfl
@[simp] theorem setWerr_remaining : (setWerr s).remaining = s.remaining := rfl
@[simp] theorem setWerr_host : (setWerr s).host = s.host := rfl
@[simp] theorem setWerr_latencies : (setWerr s).latencies = s.latencies := rfl
@[simp] theorem setWerr_draws : (setWerr s).draws = s.draws := rfl
@[simp] theorem setWerr_fill : (setWerr s).fill = s.fill := rfl
@[simp] theorem setWerr_cfg : (setWerr s).cfg = s.cfg := rfl

/-! ### writeStatus -/

@[simp] theorem writeStatus_pending (v : Word) : (writeStatus v s).pending = s.pending := rfl
@[simp] theorem writeStatus_busy (v : Word) : (writeStatus v s).busy = s.busy := rfl
@[simp] theorem writeStatus_done (v : Word) : (writeStatus v s).done = (s.done && !v.getLsbD 1) := rfl
@[simp] theorem writeStatus_result (v : Word) : (writeStatus v s).result = s.result := rfl
@[simp] theorem writeStatus_werr (v : Word) : (writeStatus v s).werr = (s.werr && !v.getLsbD 8) := rfl
@[simp] theorem writeStatus_doneIe (v : Word) : (writeStatus v s).doneIe = s.doneIe := rfl
@[simp] theorem writeStatus_arg0 (v : Word) : (writeStatus v s).arg0 = s.arg0 := rfl
@[simp] theorem writeStatus_arg1 (v : Word) : (writeStatus v s).arg1 = s.arg1 := rfl
@[simp] theorem writeStatus_arg2 (v : Word) : (writeStatus v s).arg2 = s.arg2 := rfl
@[simp] theorem writeStatus_res0 (v : Word) : (writeStatus v s).res0 = s.res0 := rfl
@[simp] theorem writeStatus_res1 (v : Word) : (writeStatus v s).res1 = s.res1 := rfl
@[simp] theorem writeStatus_res2 (v : Word) : (writeStatus v s).res2 = s.res2 := rfl
@[simp] theorem writeStatus_key (v : Word) : (writeStatus v s).key = s.key := rfl
@[simp] theorem writeStatus_blkIn (v : Word) : (writeStatus v s).blkIn = s.blkIn := rfl
@[simp] theorem writeStatus_blkOut (v : Word) : (writeStatus v s).blkOut = s.blkOut := rfl
@[simp] theorem writeStatus_sessFmt (v : Word) : (writeStatus v s).sessFmt = s.sessFmt := rfl
@[simp] theorem writeStatus_sessValid (v : Word) : (writeStatus v s).sessValid = s.sessValid := rfl
@[simp] theorem writeStatus_sessNetid (v : Word) : (writeStatus v s).sessNetid = s.sessNetid := rfl
@[simp] theorem writeStatus_sessDevaddr (v : Word) : (writeStatus v s).sessDevaddr = s.sessDevaddr := rfl
@[simp] theorem writeStatus_sessNwkskey (v : Word) : (writeStatus v s).sessNwkskey = s.sessNwkskey := rfl
@[simp] theorem writeStatus_sessAppskey (v : Word) : (writeStatus v s).sessAppskey = s.sessAppskey := rfl
@[simp] theorem writeStatus_stgFmt (v : Word) : (writeStatus v s).stgFmt = s.stgFmt := rfl
@[simp] theorem writeStatus_stgNetid (v : Word) : (writeStatus v s).stgNetid = s.stgNetid := rfl
@[simp] theorem writeStatus_stgDevaddr (v : Word) : (writeStatus v s).stgDevaddr = s.stgDevaddr := rfl
@[simp] theorem writeStatus_stgNwkskey (v : Word) : (writeStatus v s).stgNwkskey = s.stgNwkskey := rfl
@[simp] theorem writeStatus_stgAppskey (v : Word) : (writeStatus v s).stgAppskey = s.stgAppskey := rfl
@[simp] theorem writeStatus_appeui (v : Word) : (writeStatus v s).appeui = s.appeui := rfl
@[simp] theorem writeStatus_deveui (v : Word) : (writeStatus v s).deveui = s.deveui := rfl
@[simp] theorem writeStatus_devnonce (v : Word) : (writeStatus v s).devnonce = s.devnonce := rfl
@[simp] theorem writeStatus_appkey (v : Word) : (writeStatus v s).appkey = s.appkey := rfl
@[simp] theorem writeStatus_jaAppnonce (v : Word) : (writeStatus v s).jaAppnonce = s.jaAppnonce := rfl
@[simp] theorem writeStatus_jaInfo (v : Word) : (writeStatus v s).jaInfo = s.jaInfo := rfl
@[simp] theorem writeStatus_jaCflist (v : Word) : (writeStatus v s).jaCflist = s.jaCflist := rfl
@[simp] theorem writeStatus_mem (v : Word) : (writeStatus v s).mem = s.mem := rfl
@[simp] theorem writeStatus_response (v : Word) : (writeStatus v s).response = s.response := rfl
@[simp] theorem writeStatus_remaining (v : Word) : (writeStatus v s).remaining = s.remaining := rfl
@[simp] theorem writeStatus_host (v : Word) : (writeStatus v s).host = s.host := rfl
@[simp] theorem writeStatus_latencies (v : Word) : (writeStatus v s).latencies = s.latencies := rfl
@[simp] theorem writeStatus_draws (v : Word) : (writeStatus v s).draws = s.draws := rfl
@[simp] theorem writeStatus_fill (v : Word) : (writeStatus v s).fill = s.fill := rfl
@[simp] theorem writeStatus_cfg (v : Word) : (writeStatus v s).cfg = s.cfg := rfl

/-! ### writeIrqEn -/

@[simp] theorem writeIrqEn_pending (v : Word) : (writeIrqEn v s).pending = s.pending := rfl
@[simp] theorem writeIrqEn_busy (v : Word) : (writeIrqEn v s).busy = s.busy := rfl
@[simp] theorem writeIrqEn_done (v : Word) : (writeIrqEn v s).done = s.done := rfl
@[simp] theorem writeIrqEn_result (v : Word) : (writeIrqEn v s).result = s.result := rfl
@[simp] theorem writeIrqEn_werr (v : Word) : (writeIrqEn v s).werr = s.werr := rfl
@[simp] theorem writeIrqEn_doneIe (v : Word) : (writeIrqEn v s).doneIe = v.getLsbD 0 := rfl
@[simp] theorem writeIrqEn_arg0 (v : Word) : (writeIrqEn v s).arg0 = s.arg0 := rfl
@[simp] theorem writeIrqEn_arg1 (v : Word) : (writeIrqEn v s).arg1 = s.arg1 := rfl
@[simp] theorem writeIrqEn_arg2 (v : Word) : (writeIrqEn v s).arg2 = s.arg2 := rfl
@[simp] theorem writeIrqEn_res0 (v : Word) : (writeIrqEn v s).res0 = s.res0 := rfl
@[simp] theorem writeIrqEn_res1 (v : Word) : (writeIrqEn v s).res1 = s.res1 := rfl
@[simp] theorem writeIrqEn_res2 (v : Word) : (writeIrqEn v s).res2 = s.res2 := rfl
@[simp] theorem writeIrqEn_key (v : Word) : (writeIrqEn v s).key = s.key := rfl
@[simp] theorem writeIrqEn_blkIn (v : Word) : (writeIrqEn v s).blkIn = s.blkIn := rfl
@[simp] theorem writeIrqEn_blkOut (v : Word) : (writeIrqEn v s).blkOut = s.blkOut := rfl
@[simp] theorem writeIrqEn_sessFmt (v : Word) : (writeIrqEn v s).sessFmt = s.sessFmt := rfl
@[simp] theorem writeIrqEn_sessValid (v : Word) : (writeIrqEn v s).sessValid = s.sessValid := rfl
@[simp] theorem writeIrqEn_sessNetid (v : Word) : (writeIrqEn v s).sessNetid = s.sessNetid := rfl
@[simp] theorem writeIrqEn_sessDevaddr (v : Word) : (writeIrqEn v s).sessDevaddr = s.sessDevaddr := rfl
@[simp] theorem writeIrqEn_sessNwkskey (v : Word) : (writeIrqEn v s).sessNwkskey = s.sessNwkskey := rfl
@[simp] theorem writeIrqEn_sessAppskey (v : Word) : (writeIrqEn v s).sessAppskey = s.sessAppskey := rfl
@[simp] theorem writeIrqEn_stgFmt (v : Word) : (writeIrqEn v s).stgFmt = s.stgFmt := rfl
@[simp] theorem writeIrqEn_stgNetid (v : Word) : (writeIrqEn v s).stgNetid = s.stgNetid := rfl
@[simp] theorem writeIrqEn_stgDevaddr (v : Word) : (writeIrqEn v s).stgDevaddr = s.stgDevaddr := rfl
@[simp] theorem writeIrqEn_stgNwkskey (v : Word) : (writeIrqEn v s).stgNwkskey = s.stgNwkskey := rfl
@[simp] theorem writeIrqEn_stgAppskey (v : Word) : (writeIrqEn v s).stgAppskey = s.stgAppskey := rfl
@[simp] theorem writeIrqEn_appeui (v : Word) : (writeIrqEn v s).appeui = s.appeui := rfl
@[simp] theorem writeIrqEn_deveui (v : Word) : (writeIrqEn v s).deveui = s.deveui := rfl
@[simp] theorem writeIrqEn_devnonce (v : Word) : (writeIrqEn v s).devnonce = s.devnonce := rfl
@[simp] theorem writeIrqEn_appkey (v : Word) : (writeIrqEn v s).appkey = s.appkey := rfl
@[simp] theorem writeIrqEn_jaAppnonce (v : Word) : (writeIrqEn v s).jaAppnonce = s.jaAppnonce := rfl
@[simp] theorem writeIrqEn_jaInfo (v : Word) : (writeIrqEn v s).jaInfo = s.jaInfo := rfl
@[simp] theorem writeIrqEn_jaCflist (v : Word) : (writeIrqEn v s).jaCflist = s.jaCflist := rfl
@[simp] theorem writeIrqEn_mem (v : Word) : (writeIrqEn v s).mem = s.mem := rfl
@[simp] theorem writeIrqEn_response (v : Word) : (writeIrqEn v s).response = s.response := rfl
@[simp] theorem writeIrqEn_remaining (v : Word) : (writeIrqEn v s).remaining = s.remaining := rfl
@[simp] theorem writeIrqEn_host (v : Word) : (writeIrqEn v s).host = s.host := rfl
@[simp] theorem writeIrqEn_latencies (v : Word) : (writeIrqEn v s).latencies = s.latencies := rfl
@[simp] theorem writeIrqEn_draws (v : Word) : (writeIrqEn v s).draws = s.draws := rfl
@[simp] theorem writeIrqEn_fill (v : Word) : (writeIrqEn v s).fill = s.fill := rfl
@[simp] theorem writeIrqEn_cfg (v : Word) : (writeIrqEn v s).cfg = s.cfg := rfl

/-! ### drawBusyRead -/

@[simp] theorem drawBusyRead_pending : ((drawBusyRead s).2).pending = s.pending := rfl
@[simp] theorem drawBusyRead_busy : ((drawBusyRead s).2).busy = s.busy := rfl
@[simp] theorem drawBusyRead_done : ((drawBusyRead s).2).done = s.done := rfl
@[simp] theorem drawBusyRead_result : ((drawBusyRead s).2).result = s.result := rfl
@[simp] theorem drawBusyRead_werr : ((drawBusyRead s).2).werr = s.werr := rfl
@[simp] theorem drawBusyRead_doneIe : ((drawBusyRead s).2).doneIe = s.doneIe := rfl
@[simp] theorem drawBusyRead_arg0 : ((drawBusyRead s).2).arg0 = s.arg0 := rfl
@[simp] theorem drawBusyRead_arg1 : ((drawBusyRead s).2).arg1 = s.arg1 := rfl
@[simp] theorem drawBusyRead_arg2 : ((drawBusyRead s).2).arg2 = s.arg2 := rfl
@[simp] theorem drawBusyRead_res0 : ((drawBusyRead s).2).res0 = s.res0 := rfl
@[simp] theorem drawBusyRead_res1 : ((drawBusyRead s).2).res1 = s.res1 := rfl
@[simp] theorem drawBusyRead_res2 : ((drawBusyRead s).2).res2 = s.res2 := rfl
@[simp] theorem drawBusyRead_key : ((drawBusyRead s).2).key = s.key := rfl
@[simp] theorem drawBusyRead_blkIn : ((drawBusyRead s).2).blkIn = s.blkIn := rfl
@[simp] theorem drawBusyRead_blkOut : ((drawBusyRead s).2).blkOut = s.blkOut := rfl
@[simp] theorem drawBusyRead_sessFmt : ((drawBusyRead s).2).sessFmt = s.sessFmt := rfl
@[simp] theorem drawBusyRead_sessValid : ((drawBusyRead s).2).sessValid = s.sessValid := rfl
@[simp] theorem drawBusyRead_sessNetid : ((drawBusyRead s).2).sessNetid = s.sessNetid := rfl
@[simp] theorem drawBusyRead_sessDevaddr : ((drawBusyRead s).2).sessDevaddr = s.sessDevaddr := rfl
@[simp] theorem drawBusyRead_sessNwkskey : ((drawBusyRead s).2).sessNwkskey = s.sessNwkskey := rfl
@[simp] theorem drawBusyRead_sessAppskey : ((drawBusyRead s).2).sessAppskey = s.sessAppskey := rfl
@[simp] theorem drawBusyRead_stgFmt : ((drawBusyRead s).2).stgFmt = s.stgFmt := rfl
@[simp] theorem drawBusyRead_stgNetid : ((drawBusyRead s).2).stgNetid = s.stgNetid := rfl
@[simp] theorem drawBusyRead_stgDevaddr : ((drawBusyRead s).2).stgDevaddr = s.stgDevaddr := rfl
@[simp] theorem drawBusyRead_stgNwkskey : ((drawBusyRead s).2).stgNwkskey = s.stgNwkskey := rfl
@[simp] theorem drawBusyRead_stgAppskey : ((drawBusyRead s).2).stgAppskey = s.stgAppskey := rfl
@[simp] theorem drawBusyRead_appeui : ((drawBusyRead s).2).appeui = s.appeui := rfl
@[simp] theorem drawBusyRead_deveui : ((drawBusyRead s).2).deveui = s.deveui := rfl
@[simp] theorem drawBusyRead_devnonce : ((drawBusyRead s).2).devnonce = s.devnonce := rfl
@[simp] theorem drawBusyRead_appkey : ((drawBusyRead s).2).appkey = s.appkey := rfl
@[simp] theorem drawBusyRead_jaAppnonce : ((drawBusyRead s).2).jaAppnonce = s.jaAppnonce := rfl
@[simp] theorem drawBusyRead_jaInfo : ((drawBusyRead s).2).jaInfo = s.jaInfo := rfl
@[simp] theorem drawBusyRead_jaCflist : ((drawBusyRead s).2).jaCflist = s.jaCflist := rfl
@[simp] theorem drawBusyRead_mem : ((drawBusyRead s).2).mem = s.mem := rfl
@[simp] theorem drawBusyRead_response : ((drawBusyRead s).2).response = s.response := rfl
@[simp] theorem drawBusyRead_remaining : ((drawBusyRead s).2).remaining = s.remaining := rfl
@[simp] theorem drawBusyRead_host : ((drawBusyRead s).2).host = s.host := rfl
@[simp] theorem drawBusyRead_latencies : ((drawBusyRead s).2).latencies = s.latencies := rfl
@[simp] theorem drawBusyRead_draws : ((drawBusyRead s).2).draws = s.draws + 1 := rfl
@[simp] theorem drawBusyRead_fill : ((drawBusyRead s).2).fill = s.fill := rfl
@[simp] theorem drawBusyRead_cfg : ((drawBusyRead s).2).cfg = s.cfg := rfl

/-! ### acceptCommand -/

@[simp] theorem acceptCommand_pending (v : Word) : (acceptCommand v s).pending = v := rfl
@[simp] theorem acceptCommand_busy (v : Word) : (acceptCommand v s).busy = true := rfl
@[simp] theorem acceptCommand_done (v : Word) : (acceptCommand v s).done = false := rfl
@[simp] theorem acceptCommand_result (v : Word) : (acceptCommand v s).result = s.result := rfl
@[simp] theorem acceptCommand_werr (v : Word) : (acceptCommand v s).werr = s.werr := rfl
@[simp] theorem acceptCommand_doneIe (v : Word) : (acceptCommand v s).doneIe = s.doneIe := rfl
@[simp] theorem acceptCommand_arg0 (v : Word) : (acceptCommand v s).arg0 = s.arg0 := rfl
@[simp] theorem acceptCommand_arg1 (v : Word) : (acceptCommand v s).arg1 = s.arg1 := rfl
@[simp] theorem acceptCommand_arg2 (v : Word) : (acceptCommand v s).arg2 = s.arg2 := rfl
@[simp] theorem acceptCommand_res0 (v : Word) : (acceptCommand v s).res0 = s.res0 := rfl
@[simp] theorem acceptCommand_res1 (v : Word) : (acceptCommand v s).res1 = s.res1 := rfl
@[simp] theorem acceptCommand_res2 (v : Word) : (acceptCommand v s).res2 = s.res2 := rfl
@[simp] theorem acceptCommand_key (v : Word) : (acceptCommand v s).key = s.key := rfl
@[simp] theorem acceptCommand_blkIn (v : Word) : (acceptCommand v s).blkIn = s.blkIn := rfl
@[simp] theorem acceptCommand_blkOut (v : Word) : (acceptCommand v s).blkOut = s.blkOut := rfl
@[simp] theorem acceptCommand_sessFmt (v : Word) : (acceptCommand v s).sessFmt = s.sessFmt := rfl
@[simp] theorem acceptCommand_sessValid (v : Word) : (acceptCommand v s).sessValid = s.sessValid := rfl
@[simp] theorem acceptCommand_sessNetid (v : Word) : (acceptCommand v s).sessNetid = s.sessNetid := rfl
@[simp] theorem acceptCommand_sessDevaddr (v : Word) : (acceptCommand v s).sessDevaddr = s.sessDevaddr := rfl
@[simp] theorem acceptCommand_sessNwkskey (v : Word) : (acceptCommand v s).sessNwkskey = s.sessNwkskey := rfl
@[simp] theorem acceptCommand_sessAppskey (v : Word) : (acceptCommand v s).sessAppskey = s.sessAppskey := rfl
@[simp] theorem acceptCommand_stgFmt (v : Word) : (acceptCommand v s).stgFmt = s.stgFmt := rfl
@[simp] theorem acceptCommand_stgNetid (v : Word) : (acceptCommand v s).stgNetid = s.stgNetid := rfl
@[simp] theorem acceptCommand_stgDevaddr (v : Word) : (acceptCommand v s).stgDevaddr = s.stgDevaddr := rfl
@[simp] theorem acceptCommand_stgNwkskey (v : Word) : (acceptCommand v s).stgNwkskey = s.stgNwkskey := rfl
@[simp] theorem acceptCommand_stgAppskey (v : Word) : (acceptCommand v s).stgAppskey = s.stgAppskey := rfl
@[simp] theorem acceptCommand_appeui (v : Word) : (acceptCommand v s).appeui = s.appeui := rfl
@[simp] theorem acceptCommand_deveui (v : Word) : (acceptCommand v s).deveui = s.deveui := rfl
@[simp] theorem acceptCommand_devnonce (v : Word) : (acceptCommand v s).devnonce = s.devnonce := rfl
@[simp] theorem acceptCommand_appkey (v : Word) : (acceptCommand v s).appkey = s.appkey := rfl
@[simp] theorem acceptCommand_jaAppnonce (v : Word) : (acceptCommand v s).jaAppnonce = s.jaAppnonce := rfl
@[simp] theorem acceptCommand_jaInfo (v : Word) : (acceptCommand v s).jaInfo = s.jaInfo := rfl
@[simp] theorem acceptCommand_jaCflist (v : Word) : (acceptCommand v s).jaCflist = s.jaCflist := rfl
@[simp] theorem acceptCommand_mem (v : Word) : (acceptCommand v s).mem = s.mem := rfl
@[simp] theorem acceptCommand_response (v : Word) : (acceptCommand v s).response = s.response := rfl
@[simp] theorem acceptCommand_remaining (v : Word) : (acceptCommand v s).remaining = nextLatency s := rfl
@[simp] theorem acceptCommand_host (v : Word) : (acceptCommand v s).host = s.host := rfl
@[simp] theorem acceptCommand_latencies (v : Word) : (acceptCommand v s).latencies = s.latencies.tail := rfl
@[simp] theorem acceptCommand_draws (v : Word) : (acceptCommand v s).draws = if s.latencies.isEmpty then s.draws + 1 else s.draws := rfl
@[simp] theorem acceptCommand_fill (v : Word) : (acceptCommand v s).fill = s.fill := rfl
@[simp] theorem acceptCommand_cfg (v : Word) : (acceptCommand v s).cfg = s.cfg := rfl

/-! ### resetCycle -/

@[simp] theorem resetCycle_pending : (resetCycle s).pending = State.reset.pending := rfl
@[simp] theorem resetCycle_busy : (resetCycle s).busy = State.reset.busy := rfl
@[simp] theorem resetCycle_done : (resetCycle s).done = State.reset.done := rfl
@[simp] theorem resetCycle_result : (resetCycle s).result = State.reset.result := rfl
@[simp] theorem resetCycle_werr : (resetCycle s).werr = State.reset.werr := rfl
@[simp] theorem resetCycle_doneIe : (resetCycle s).doneIe = State.reset.doneIe := rfl
@[simp] theorem resetCycle_arg0 : (resetCycle s).arg0 = State.reset.arg0 := rfl
@[simp] theorem resetCycle_arg1 : (resetCycle s).arg1 = State.reset.arg1 := rfl
@[simp] theorem resetCycle_arg2 : (resetCycle s).arg2 = State.reset.arg2 := rfl
@[simp] theorem resetCycle_res0 : (resetCycle s).res0 = State.reset.res0 := rfl
@[simp] theorem resetCycle_res1 : (resetCycle s).res1 = State.reset.res1 := rfl
@[simp] theorem resetCycle_res2 : (resetCycle s).res2 = State.reset.res2 := rfl
@[simp] theorem resetCycle_key : (resetCycle s).key = State.reset.key := rfl
@[simp] theorem resetCycle_blkIn : (resetCycle s).blkIn = State.reset.blkIn := rfl
@[simp] theorem resetCycle_blkOut : (resetCycle s).blkOut = State.reset.blkOut := rfl
@[simp] theorem resetCycle_sessFmt : (resetCycle s).sessFmt = State.reset.sessFmt := rfl
@[simp] theorem resetCycle_sessValid : (resetCycle s).sessValid = State.reset.sessValid := rfl
@[simp] theorem resetCycle_sessNetid : (resetCycle s).sessNetid = State.reset.sessNetid := rfl
@[simp] theorem resetCycle_sessDevaddr : (resetCycle s).sessDevaddr = State.reset.sessDevaddr := rfl
@[simp] theorem resetCycle_sessNwkskey : (resetCycle s).sessNwkskey = State.reset.sessNwkskey := rfl
@[simp] theorem resetCycle_sessAppskey : (resetCycle s).sessAppskey = State.reset.sessAppskey := rfl
@[simp] theorem resetCycle_stgFmt : (resetCycle s).stgFmt = State.reset.stgFmt := rfl
@[simp] theorem resetCycle_stgNetid : (resetCycle s).stgNetid = State.reset.stgNetid := rfl
@[simp] theorem resetCycle_stgDevaddr : (resetCycle s).stgDevaddr = State.reset.stgDevaddr := rfl
@[simp] theorem resetCycle_stgNwkskey : (resetCycle s).stgNwkskey = State.reset.stgNwkskey := rfl
@[simp] theorem resetCycle_stgAppskey : (resetCycle s).stgAppskey = State.reset.stgAppskey := rfl
@[simp] theorem resetCycle_appeui : (resetCycle s).appeui = State.reset.appeui := rfl
@[simp] theorem resetCycle_deveui : (resetCycle s).deveui = State.reset.deveui := rfl
@[simp] theorem resetCycle_devnonce : (resetCycle s).devnonce = State.reset.devnonce := rfl
@[simp] theorem resetCycle_appkey : (resetCycle s).appkey = State.reset.appkey := rfl
@[simp] theorem resetCycle_jaAppnonce : (resetCycle s).jaAppnonce = State.reset.jaAppnonce := rfl
@[simp] theorem resetCycle_jaInfo : (resetCycle s).jaInfo = State.reset.jaInfo := rfl
@[simp] theorem resetCycle_jaCflist : (resetCycle s).jaCflist = State.reset.jaCflist := rfl
@[simp] theorem resetCycle_mem : (resetCycle s).mem = State.reset.mem := rfl
@[simp] theorem resetCycle_response : (resetCycle s).response = State.reset.response := rfl
@[simp] theorem resetCycle_remaining : (resetCycle s).remaining = State.reset.remaining := rfl
@[simp] theorem resetCycle_host : (resetCycle s).host = s.host := rfl
@[simp] theorem resetCycle_latencies : (resetCycle s).latencies = s.latencies := rfl
@[simp] theorem resetCycle_draws : (resetCycle s).draws = s.draws := rfl
@[simp] theorem resetCycle_fill : (resetCycle s).fill = s.fill + 1 := rfl
@[simp] theorem resetCycle_cfg : (resetCycle s).cfg = s.cfg := rfl

/-! ### advanceHost -/

@[simp] theorem advanceHost_pending : (advanceHost s).pending = s.pending := rfl
@[simp] theorem advanceHost_busy : (advanceHost s).busy = s.busy := rfl
@[simp] theorem advanceHost_done : (advanceHost s).done = s.done := rfl
@[simp] theorem advanceHost_result : (advanceHost s).result = s.result := rfl
@[simp] theorem advanceHost_werr : (advanceHost s).werr = s.werr := rfl
@[simp] theorem advanceHost_doneIe : (advanceHost s).doneIe = s.doneIe := rfl
@[simp] theorem advanceHost_arg0 : (advanceHost s).arg0 = s.arg0 := rfl
@[simp] theorem advanceHost_arg1 : (advanceHost s).arg1 = s.arg1 := rfl
@[simp] theorem advanceHost_arg2 : (advanceHost s).arg2 = s.arg2 := rfl
@[simp] theorem advanceHost_res0 : (advanceHost s).res0 = s.res0 := rfl
@[simp] theorem advanceHost_res1 : (advanceHost s).res1 = s.res1 := rfl
@[simp] theorem advanceHost_res2 : (advanceHost s).res2 = s.res2 := rfl
@[simp] theorem advanceHost_key : (advanceHost s).key = s.key := rfl
@[simp] theorem advanceHost_blkIn : (advanceHost s).blkIn = s.blkIn := rfl
@[simp] theorem advanceHost_blkOut : (advanceHost s).blkOut = s.blkOut := rfl
@[simp] theorem advanceHost_sessFmt : (advanceHost s).sessFmt = s.sessFmt := rfl
@[simp] theorem advanceHost_sessValid : (advanceHost s).sessValid = s.sessValid := rfl
@[simp] theorem advanceHost_sessNetid : (advanceHost s).sessNetid = s.sessNetid := rfl
@[simp] theorem advanceHost_sessDevaddr : (advanceHost s).sessDevaddr = s.sessDevaddr := rfl
@[simp] theorem advanceHost_sessNwkskey : (advanceHost s).sessNwkskey = s.sessNwkskey := rfl
@[simp] theorem advanceHost_sessAppskey : (advanceHost s).sessAppskey = s.sessAppskey := rfl
@[simp] theorem advanceHost_stgFmt : (advanceHost s).stgFmt = s.stgFmt := rfl
@[simp] theorem advanceHost_stgNetid : (advanceHost s).stgNetid = s.stgNetid := rfl
@[simp] theorem advanceHost_stgDevaddr : (advanceHost s).stgDevaddr = s.stgDevaddr := rfl
@[simp] theorem advanceHost_stgNwkskey : (advanceHost s).stgNwkskey = s.stgNwkskey := rfl
@[simp] theorem advanceHost_stgAppskey : (advanceHost s).stgAppskey = s.stgAppskey := rfl
@[simp] theorem advanceHost_appeui : (advanceHost s).appeui = s.appeui := rfl
@[simp] theorem advanceHost_deveui : (advanceHost s).deveui = s.deveui := rfl
@[simp] theorem advanceHost_devnonce : (advanceHost s).devnonce = s.devnonce := rfl
@[simp] theorem advanceHost_appkey : (advanceHost s).appkey = s.appkey := rfl
@[simp] theorem advanceHost_jaAppnonce : (advanceHost s).jaAppnonce = s.jaAppnonce := rfl
@[simp] theorem advanceHost_jaInfo : (advanceHost s).jaInfo = s.jaInfo := rfl
@[simp] theorem advanceHost_jaCflist : (advanceHost s).jaCflist = s.jaCflist := rfl
@[simp] theorem advanceHost_mem : (advanceHost s).mem = s.mem := rfl
@[simp] theorem advanceHost_response : (advanceHost s).response = s.response := rfl
@[simp] theorem advanceHost_remaining : (advanceHost s).remaining = s.remaining := rfl
@[simp] theorem advanceHost_host : (advanceHost s).host = nextHost s := rfl
@[simp] theorem advanceHost_latencies : (advanceHost s).latencies = s.latencies := rfl
@[simp] theorem advanceHost_draws : (advanceHost s).draws = s.draws := rfl
@[simp] theorem advanceHost_fill : (advanceHost s).fill = s.fill := rfl
@[simp] theorem advanceHost_cfg : (advanceHost s).cfg = s.cfg := rfl

end Sys2Proof.Machine
end

