-- ==== Sys2Proof/Laws/Memory.lean ====
section
/-! SUPPORT. IBUF and OBUF: read after write, and the canonical form (10_state R40, R41). -/

namespace Sys2Proof.Machine

theorem find_write (m : Memory) (a x : Nat) (b : Byte) :
    (m.write a b).find x = if x = a then some b else m.find x := by
  induction m with
  | nil => simp only [Memory.write, Memory.find, eq_comm]
  | cons e m ih =>
    obtain ⟨y, c⟩ := e
    simp only [Memory.write]
    split
    · simp only [Memory.find, eq_comm]
    · split
      · subst a; simp only [Memory.find]; split <;> simp_all [eq_comm]
      · simp only [Memory.find, ih]
        split <;> split <;> simp_all

theorem find_writeBytes (bs : List Byte) (m : Memory) (a x : Nat) :
    (m.writeBytes a bs).find x =
      if a ≤ x ∧ x < a + bs.length then some (byteAt bs (x - a)) else m.find x := by
  induction bs generalizing m a with
  | nil => simp only [Memory.writeBytes, List.length_nil]; rw [if_neg (by omega)]
  | cons b bs ih =>
    simp only [Memory.writeBytes, ih, find_write, List.length_cons]
    by_cases h1 : a + 1 ≤ x ∧ x < a + 1 + bs.length
    · rw [if_pos h1, if_pos (by omega)]
      obtain ⟨k, hk⟩ : ∃ k, x - a = k + 1 := ⟨x - a - 1, by omega⟩
      have : x - (a + 1) = k := by omega
      simp [byteAt, hk, this]
    · rw [if_neg h1]
      by_cases h2 : x = a
      · subst h2; simp [byteAt]
      · rw [if_neg h2, if_neg (by omega)]

theorem sortedFrom_mono {lo lo' : Nat} (h : lo' ≤ lo) {m : Memory} (hm : m.sortedFrom lo = true) :
    m.sortedFrom lo' = true := by
  cases m with
  | nil => rfl
  | cons e m => obtain ⟨x, b⟩ := e; simp_all [Memory.sortedFrom]; omega

theorem write_sortedFrom {lo a : Nat} {m : Memory} (b : Byte) (hlo : lo ≤ a)
    (ha : a < obufBase + bufSize) (hm : m.sortedFrom lo = true) : (m.write a b).sortedFrom lo = true := by
  induction m generalizing lo with
  | nil => simp [Memory.write, Memory.sortedFrom, hlo, ha]
  | cons e m ih =>
    obtain ⟨x, c⟩ := e
    simp only [Memory.sortedFrom, Bool.and_eq_true, decide_eq_true_eq] at hm
    obtain ⟨⟨h1, h2⟩, h3⟩ := hm
    unfold Memory.write
    split
    · simp only [Memory.sortedFrom, Bool.and_eq_true, decide_eq_true_eq]
      exact ⟨⟨hlo, ha⟩, ⟨by omega, h2⟩, h3⟩
    · split
      · subst a; simp [Memory.sortedFrom, h1, h2, h3]
      · simp only [Memory.sortedFrom, Bool.and_eq_true, decide_eq_true_eq]
        exact ⟨⟨h1, h2⟩, ih (by omega) h3⟩

/-- Writing one byte of IBUF or OBUF keeps the canonical form. -/
theorem write_wf {m : Memory} {a : Nat} (b : Byte) (h1 : ibufBase ≤ a) (h2 : a < obufBase + bufSize)
    (hm : m.wf = true) : (m.write a b).wf = true :=
  write_sortedFrom b h1 h2 hm

/-- Writing bytes of IBUF or OBUF keeps the canonical form. -/
theorem writeBytes_wf {m : Memory} {a : Nat} {bs : List Byte} (h1 : ibufBase ≤ a)
    (h2 : a + bs.length ≤ obufBase + bufSize) (hm : m.wf = true) : (m.writeBytes a bs).wf = true := by
  induction bs generalizing m a with
  | nil => exact hm
  | cons b bs ih =>
    simp only [List.length_cons] at h2
    exact ih (by omega) (by omega) (write_wf b h1 (by omega) hm)

theorem reset_mem_wf : State.reset.mem.wf = true := rfl

/-- A byte after a write of OBUF. -/
theorem byteOf_storeObuf (b : List Byte) (s : State) (x : Nat) :
    byteOf (storeObuf b s) x =
      if obufBase ≤ x ∧ x < obufBase + b.length then byteAt b (x - obufBase) else byteOf s x := by
  simp only [byteOf, storeObuf_mem, storeObuf_fill, find_writeBytes]
  split <;> rfl

/-- A byte depends on nothing but the memory and the number of the reset. -/
theorem byteOf_congr {s t : State} (hm : t.mem = s.mem) (hf : t.fill = s.fill) (x : Nat) :
    byteOf t x = byteOf s x := by simp [byteOf, hm, hf]

@[simp] theorem byteOf_complete (code : ResultCode) (s : State) (x : Nat) :
    byteOf (complete code s) x = byteOf s x := rfl

@[simp] theorem bytesFrom_length (s : State) (a n : Nat) : (bytesFrom s a n).length = n := by
  induction n generalizing a with
  | zero => rfl
  | succ n ih => simp [bytesFrom, ih]

theorem byteAt_bytesFrom (s : State) (a : Nat) {n i : Nat} (h : i < n) :
    byteAt (bytesFrom s a n) i = byteOf s (a + i) := by
  induction n generalizing a i with
  | zero => omega
  | succ n ih =>
    cases i with
    | zero => simp [bytesFrom, byteAt]
    | succ i =>
      have := ih (a + 1) (i := i) (by omega)
      simp only [byteAt, bytesFrom, List.getD_cons_succ] at this ⊢
      rw [this]; congr 1; omega

@[simp] theorem ibuf_length (s : State) (i j : Nat) : (ibuf s i j).length = j - i := by
  simp [ibuf]

/-- Byte `k` of `IBUF[i..j)` (10_state R40). -/
theorem byteAt_ibuf (s : State) {i j k : Nat} (h : k < j - i) :
    byteAt (ibuf s i j) k = byteOf s (ibufBase + i + k) := by
  rw [ibuf, byteAt_bytesFrom _ _ h]

theorem bytesFrom_congr {s t : State} {a n : Nat} (h : ∀ x, a ≤ x → x < a + n → byteOf t x = byteOf s x) :
    bytesFrom t a n = bytesFrom s a n := by
  induction n generalizing a with
  | zero => rfl
  | succ n ih =>
    simp only [bytesFrom]
    rw [h a (by omega) (by omega), ih fun x h1 h2 => h x (by omega) (by omega)]

end Sys2Proof.Machine
end

