-- ==== Sys2Proof/Laws/Commands.lean ====
section
/-! SUPPORT. What a command can do, once over all of them: it ends in one completion step, and the
state completed differs from the state before in output registers and OBUF only (60_exceptions R192,
R195, 10_state R22). -/

namespace Sys2Proof.Machine

/-- `u` is `s` but for the registers and the buffer that commands write (10_state R22, column
*core writes*). -/
def SameInputs (s u : State) : Prop :=
  u = { s with
    res0 := u.res0
    res1 := u.res1
    res2 := u.res2
    blkOut := u.blkOut
    sessFmt := u.sessFmt
    sessValid := u.sessValid
    sessNetid := u.sessNetid
    sessDevaddr := u.sessDevaddr
    sessNwkskey := u.sessNwkskey
    sessAppskey := u.sessAppskey
    stgNetid := u.stgNetid
    stgDevaddr := u.stgDevaddr
    stgNwkskey := u.stgNwkskey
    stgAppskey := u.stgAppskey
    jaAppnonce := u.jaAppnonce
    jaInfo := u.jaInfo
    jaCflist := u.jaCflist
    mem := u.mem }

/-- `exec i s` is a completion step over outputs `u`; with an error there are none. -/
def Completes (i : Instr) (s : State) (code : ResultCode) (u : State) : Prop :=
  exec i s = .next (complete code u) ∧ SameInputs s u ∧ (code = .noError ∨ u = s) ∧ code ≠ .cmdError

theorem sameInputs_storeObuf {s u : State} (b : List Byte) (h : SameInputs s u) :
    SameInputs s (storeObuf b u) := by
  unfold SameInputs at h ⊢
  conv_lhs => rw [storeObuf, h]
  rfl

theorem completes_error {i : Instr} {s : State} {code : ResultCode}
    (h : exec i s = .next (complete code s)) (hc : code ≠ .cmdError) : Completes i s code s :=
  ⟨h, rfl, .inr rfl, hc⟩

theorem completes_ok {i : Instr} {s u : State} (h : exec i s = .next (complete .noError u))
    (hu : SameInputs s u) : Completes i s .noError u :=
  ⟨h, hu, .inl rfl, nofun⟩

theorem completes_error_of {i : Instr} {s : State} {code : ResultCode}
    (h : exec i s = .next (complete code s)) (hc : code ≠ .cmdError := by exact nofun) :
    ∃ code u, Completes i s code u :=
  ⟨code, s, completes_error h hc⟩

theorem completes_ok_of {i : Instr} {s u : State} (h : exec i s = .next (complete .noError u))
    (hu : SameInputs s u := by exact rfl) : ∃ code u, Completes i s code u :=
  ⟨.noError, u, completes_ok h hu⟩

theorem parseFrame_not_cmdError (n : Nat) (b : List Byte) : parseFrame n b ≠ .error .cmdError := by
  unfold parseFrame
  split
  · exact nofun
  · split
    · exact nofun
    · split <;> exact nofun

/-- Every command, in every state, ends in one completion step. -/
theorem exec_completes (i : Instr) (s : State) : ∃ code u, Completes i s code u := by
  cases i
  case aesEnc => exact completes_ok_of rfl
  case aesDec => exact completes_ok_of rfl
  case mask =>
    by_cases h : 255 < arg0N s
    · exact completes_error_of (by simp only [exec, execMask, if_pos h]; rfl)
    · exact completes_ok_of (by simp only [exec, execMask, if_neg h]; rfl)
  case cmac =>
    by_cases h : 256 < arg0N s
    · exact completes_error_of (by simp only [exec, execCmac, if_pos h]; rfl)
    · exact completes_ok_of (by simp only [exec, execCmac, if_neg h]; rfl)
  case dataMic =>
    by_cases h : 255 < arg0N s
    · exact completes_error_of (by simp only [exec, execDataMic, if_pos h]; rfl)
    · exact completes_ok_of (by simp only [exec, execDataMic, if_neg h]; rfl)
  case compose =>
    by_cases h1 : s.sessValid = false
    · exact completes_error_of (by simp only [exec, execCompose, if_pos h1]; rfl)
    by_cases h2 : isData (arg1Mtype s) = false
    · exact completes_error_of (by simp only [exec, execCompose, if_neg h1, if_pos h2]; rfl)
    by_cases h3 : sessionMaxpl s < arg0N s
    · exact completes_error_of (by simp only [exec, execCompose, if_neg h1, if_neg h2, if_pos h3]; rfl)
    by_cases h4 : 15 < arg1FoptsLen s
    · exact completes_error_of (by simp only [exec, execCompose, if_neg h1, if_neg h2, if_neg h3, if_pos h4]; rfl)
    by_cases h5 : maxFrameLen < composeLength (arg1FoptsLen s) (arg0N s)
    · exact completes_error_of (by simp only [exec, execCompose, if_neg h1, if_neg h2, if_neg h3, if_neg h4, if_pos h5]; rfl)
    · exact completes_ok_of (by simp only [exec, execCompose, if_neg h1, if_neg h2, if_neg h3, if_neg h4, if_neg h5]; rfl)
        (by exact sameInputs_storeObuf _ rfl)
  case decode =>
    by_cases h1 : s.sessValid = false
    · exact completes_error_of (by simp only [exec, execDecode, if_pos h1]; rfl)
    cases h2 : parseIbuf s with
    | error code =>
      refine ⟨code, s, completes_error (by simp only [exec, execDecode, if_neg h1, h2]; rfl) ?_⟩
      rintro rfl; exact parseFrame_not_cmdError _ _ h2
    | ok h =>
      by_cases h3 : frameMic s h (ibuf s 0 (arg0N s)) ≠
          slice (ibuf s 0 (arg0N s)) (arg0N s - 4) (arg0N s)
      · exact completes_error_of (by simp only [exec, execDecode, if_neg h1, h2, if_pos h3]; rfl)
      · exact completes_ok_of (by simp only [exec, execDecode, if_neg h1, h2, if_neg h3]; rfl)
          (by exact sameInputs_storeObuf _ rfl)
  case getAddress =>
    cases h2 : parseIbuf s with
    | error code =>
      refine ⟨code, s, completes_error (by simp only [exec, execGetAddress, h2]; rfl) ?_⟩
      rintro rfl; exact parseFrame_not_cmdError _ _ h2
    | ok h => exact completes_ok_of (by simp only [exec, execGetAddress, h2]; rfl)
  case getHeader =>
    cases h2 : parseIbuf s with
    | error code =>
      refine ⟨code, s, completes_error (by simp only [exec, execGetHeader, h2]; rfl) ?_⟩
      rintro rfl; exact parseFrame_not_cmdError _ _ h2
    | ok h => exact completes_ok_of (by simp only [exec, execGetHeader, h2]; rfl)
  case joinReq => exact completes_ok_of (by simp only [exec, execJoinReq]; rfl) (by exact sameInputs_storeObuf _ rfl)
  case joinAccept =>
    by_cases h1 : arg0N s ≠ 17 ∧ arg0N s ≠ 33
    · exact completes_error_of (by simp only [exec, execJoinAccept, if_pos h1]; rfl)
    by_cases h2 : cmacMic s.appkey (slice (joinPlain s) 0 (arg0N s - 4)) ≠
        slice (joinPlain s) (arg0N s - 4) (arg0N s)
    · exact completes_error_of (by simp only [exec, execJoinAccept, if_neg h1, if_pos h2]; rfl)
    · exact completes_ok_of (by simp only [exec, execJoinAccept, if_neg h1, if_neg h2]; rfl)
        (by exact sameInputs_storeObuf _ rfl)
  case sessionLoad =>
    cases h : maxplOf s.cfg s.stgFmt with
    | none => exact completes_error_of (by simp only [exec, execSessionLoad, h]; rfl)
    | some m => exact completes_ok_of (by simp only [exec, execSessionLoad, h]; rfl)
  case sessionClear => exact completes_ok_of rfl
  case getDirection => exact completes_ok_of rfl
  case ackRequest => exact completes_ok_of rfl
  case maxPayload =>
    by_cases h : s.sessValid = false
    · exact completes_error_of (by simp only [exec, execMaxPayload, if_pos h]; rfl)
    · exact completes_ok_of (by simp only [exec, execMaxPayload, if_neg h]; rfl)

end Sys2Proof.Machine
end

