-- ==== Sys2Proof/Laws/Words.lean ====
section
/-! SUPPORT. Words of a wide register (10_state R29, R36), and wire words and little-endian
encodings as the same bytes (20_memory R55). -/

namespace Sys2Proof.Machine

theorem getLsbD_setWord {w : Nat} (x : BitVec w) (i : Nat) (v : Word) (k : Nat) :
    (setWord x i v).getLsbD k =
      if 32 * i ≤ k ∧ k < 32 * i + 32 then decide (k < w) && v.getLsbD (k - 32 * i)
      else x.getLsbD k := by
  simp only [setWord, BitVec.getLsbD_or, BitVec.getLsbD_and, BitVec.getLsbD_not,
    BitVec.getLsbD_shiftLeft, BitVec.getLsbD_setWidth, BitVec.getLsbD_allOnes]
  by_cases hw : k < w
  · by_cases h1 : k < 32 * i
    · simp [hw, h1]
    · by_cases h2 : k < 32 * i + 32
      · simp [hw, h1, h2, show k - 32 * i < w by omega, show k - 32 * i < 32 by omega]
      · simp [hw, h1, h2, show ¬ k - 32 * i < 32 by omega]
        intro _ h
        rw [BitVec.getLsbD_of_ge v _ (by omega)] at h
        cases h
  · simp [hw, BitVec.getLsbD_of_ge x k (by omega)]

/-- The word written reads back, if the register has all of its bits. -/
theorem getWord_setWord_same {w : Nat} (x : BitVec w) (i : Nat) (v : Word) (h : 32 * i + 32 ≤ w) :
    getWord (setWord x i v) i = v := by
  apply BitVec.eq_of_getLsbD_eq
  intro k hk
  simp only [getWord, BitVec.getLsbD_extractLsb', getLsbD_setWord]
  simp [hk, show 32 * i + k < w by omega]

/-- The other words of the register are kept (20_memory R53). -/
theorem getWord_setWord_other {w : Nat} (x : BitVec w) {i j : Nat} (v : Word) (h : j ≠ i) :
    getWord (setWord x i v) j = getWord x j := by
  apply BitVec.eq_of_getLsbD_eq
  intro k hk
  simp only [getWord, BitVec.getLsbD_extractLsb', getLsbD_setWord]
  rw [if_neg (by omega)]

theorem byteAt_cons_zero (b : Byte) (l : List Byte) : byteAt (b :: l) 0 = b := rfl
theorem byteAt_cons_succ (b : Byte) (l : List Byte) (i : Nat) :
    byteAt (b :: l) (i + 1) = byteAt l i := rfl

/-- `le_4` of a word is its four bytes on the wire. -/
theorem le_four (a : Word) : le 4 a.toNat = wireWord a := by
  apply bytes_ext (by simp [wireWord])
  intro i hi
  simp only [le_length] at hi
  rw [byteAt_le _ hi, ofNat_div_256]
  interval_cases i <;> rfl

/-- `le_2` of a 16-bit value is its two bytes on the wire. -/
theorem le_two (f : BitVec 16) : le 2 f.toNat = wireHalf f := by
  apply bytes_ext (by simp [wireHalf])
  intro i hi
  simp only [le_length] at hi
  rw [byteAt_le _ hi, ofNat_div_256]
  interval_cases i <;> rfl

/-- `le_4` of a zero-extended 16-bit counter. -/
theorem le_four_half (f : BitVec 16) : le 4 f.toNat = wireHalf f ++ [0, 0] := by
  have h := f.isLt
  have h2 : f.toNat / 256 / 256 = 0 := by omega
  rw [← le_two]
  simp [le, h2]

/-- Concatenation as arithmetic. -/
theorem toNat_append_add {m n : Nat} (x : BitVec m) (y : BitVec n) :
    (x ++ y).toNat = x.toNat * 2 ^ n + y.toNat := by
  rw [BitVec.toNat_append, ← Nat.shiftLeft_add_eq_or_of_lt y.isLt, Nat.shiftLeft_eq]

/-- `from_le` of four bytes, as a word. -/
theorem ofNat_fromLE_four (b0 b1 b2 b3 : Byte) :
    BitVec.ofNat 32 (fromLE [b0, b1, b2, b3]) = b3 ++ b2 ++ b1 ++ b0 := by
  apply BitVec.eq_of_toNat_eq
  have := b0.isLt; have := b1.isLt; have := b2.isLt; have := b3.isLt
  simp only [fromLE, BitVec.toNat_ofNat, toNat_append_add]
  omega

/-- `from_le` of three bytes, as a 24-bit value. -/
theorem ofNat_fromLE_three (b0 b1 b2 : Byte) :
    BitVec.ofNat 24 (fromLE [b0, b1, b2]) = b2 ++ b1 ++ b0 := by
  apply BitVec.eq_of_toNat_eq
  have := b0.isLt; have := b1.isLt; have := b2.isLt
  simp only [fromLE, BitVec.toNat_ofNat, toNat_append_add]
  omega

/-- `from_le` of two bytes, as a 16-bit value. -/
theorem ofNat_fromLE_two (b0 b1 : Byte) : BitVec.ofNat 16 (fromLE [b0, b1]) = b1 ++ b0 := by
  apply BitVec.eq_of_toNat_eq
  have := b0.isLt; have := b1.isLt
  simp only [fromLE, BitVec.toNat_ofNat, toNat_append_add]
  omega

/-- A field of a field. -/
theorem extract_extract {w : Nat} (e : BitVec w) {a n b m : Nat} (h : b + m ≤ n) :
    (e.extractLsb' a n).extractLsb' b m = e.extractLsb' (a + b) m := by
  apply BitVec.eq_of_getLsbD_eq
  intro k hk
  simp only [BitVec.getLsbD_extractLsb', show b + k < n by omega, decide_true, Bool.true_and,
    Nat.add_assoc]

/-- `le_8` of an identifier is the wire bytes of its two halves. -/
theorem le_eight (e : BitVec 64) :
    le 8 e.toNat = wireWord (e.extractLsb' 0 32) ++ wireWord (e.extractLsb' 32 32) := by
  apply bytes_ext (by simp [wireWord])
  intro i hi
  simp only [le_length] at hi
  rw [byteAt_le _ hi, ofNat_div_256]
  simp only [wireWord, extract_extract _ (show 0 + 8 ≤ 32 by decide),
    extract_extract _ (show 8 + 8 ≤ 32 by decide), extract_extract _ (show 16 + 8 ≤ 32 by decide),
    extract_extract _ (show 24 + 8 ≤ 32 by decide)]
  interval_cases i <;> rfl

end Sys2Proof.Machine
end

