-- ==== Sys2Proof/Laws/Completion.lean ====
section
/-! SUPPORT. Completion in the terms of claims: `ended`, `ObufHolds` and the header words
(60_exceptions R192, 10_state R41, 30_encoding R75, R76). -/

namespace Sys2Proof.Machine

theorem complete_eq_ended (code : ResultCode) (s : State) : complete code s = ended (resultBits code) s := rfl

theorem complete_storeObuf (b : List Byte) (u : State) :
    complete .noError (storeObuf b u) = ended 0 { u with mem := u.mem.writeBytes obufBase b } := rfl

/-- A store to OBUF writes its bytes and no other byte of the buffers. -/
theorem obufHolds_storeObuf (b : List Byte) {s u : State} (hm : u.mem = s.mem) (hf : u.fill = s.fill)
    (code : ResultCode) : ObufHolds b s (complete code (storeObuf b u)) := by
  intro x
  rw [byteOf_complete, byteOf_storeObuf, byteOf_congr hm hf]

/-- The fields of RES0 of DECODE and GET_HEADER. -/
theorem headerRes0_fields (h : Header) (hp : h.payloadLen < 512) :
    HeaderRes0 (headerRes0 h) h.payloadLen h.portPresent h.fcnt := by
  have e : BitVec.ofNat 32 h.payloadLen = (BitVec.ofNat 9 h.payloadLen).setWidth 32 := by
    apply BitVec.eq_of_toNat_eq; simp; omega
  have e2 : h.payloadLen = (BitVec.ofNat 9 h.payloadLen).toNat := by simp; omega
  unfold HeaderRes0 headerRes0
  rw [e]
  refine ⟨?_, ?_, ?_, ?_, ?_⟩
  · conv_rhs => rw [e2]
    congr 1
    apply BitVec.eq_of_getLsbD_eq; intro k hk
    interval_cases k <;> simp
  case refine_3 => cases h.portPresent <;> simp
  all_goals
    apply BitVec.eq_of_getLsbD_eq; intro k hk
    interval_cases k <;> simp

/-- The fields of RES1 of DECODE and GET_HEADER. -/
theorem headerRes1_fields (h : Header) (hf : h.foptsLen = (h.fctrl.extractLsb' 0 4).toNat)
    (hm : h.mtype = h.mhdr.extractLsb' 5 3) :
    HeaderRes1 (headerRes1 h) h.fctrl h.port h.mhdr := by
  have e : BitVec.ofNat 32 h.foptsLen = (h.fctrl.extractLsb' 0 4).setWidth 32 := by
    rw [hf]; apply BitVec.eq_of_toNat_eq; simp
  unfold HeaderRes1 headerRes1 fctrlHi
  rw [e, hm]
  refine ⟨?_, ?_, ?_, ?_, ?_, ?_, ?_⟩
  case refine_4 => simp
  all_goals
    apply BitVec.eq_of_getLsbD_eq; intro k hk
    interval_cases k <;> simp

end Sys2Proof.Machine
end

