-- ==== Sys2Proof/Laws/Mac.lean ====
section
/-! SUPPORT. The counter blocks, the MIC word and masking, byte by byte (41_mask_mic R110 to
R117). -/

namespace Sys2Proof.Machine

/-- The middle of a counter block, byte by byte (41_mask_mic R110). -/
theorem counterMiddle_eq (d : BitVec 1) (a : Word) (f : BitVec 16) :
    counterMiddle d a f = [0, 0, 0, 0, d.setWidth 8] ++ wireWord a ++ wireHalf f ++ [0, 0, 0] := by
  simp [counterMiddle, le_four, le_four_half, zeros]

/-- The first four bytes of a block are its lowest word. -/
theorem take_four_blockBytes (x : Block) : (blockBytes x).take 4 = wireWord (x.extractLsb' 0 32) := by
  apply bytes_ext (by simp [wireWord])
  intro i hi
  simp only [List.length_take, blockBytes_length] at hi
  have h := byteAt_slice (blockBytes x) (i := 0) (j := 4) (k := i) (by omega)
  rw [show slice (blockBytes x) 0 4 = (blockBytes x).take 4 from rfl] at h
  rw [h, Nat.zero_add, byteAt_blockBytes x (by omega)]
  simp only [wireWord, extract_extract _ (show 0 + 8 ≤ 32 by decide),
    extract_extract _ (show 8 + 8 ≤ 32 by decide), extract_extract _ (show 16 + 8 ≤ 32 by decide),
    extract_extract _ (show 24 + 8 ≤ 32 by decide)]
  have hi : i < 4 := by omega
  interval_cases i <;> rfl

/-- The MIC word of a wire word is that word (41_mask_mic R116). -/
theorem micWord_wireWord (x : Word) : micWord (wireWord x) = x := by
  rw [← le_four, micWord, fromLE_le]
  apply BitVec.eq_of_toNat_eq
  have := x.isLt
  simp only [BitVec.toNat_ofNat]; omega

/-- The MIC of a message is the lowest word of its tag, on the wire (41_mask_mic R114). -/
theorem cmacMic_eq (key : Block) (m : List Byte) :
    cmacMic key m = wireWord ((cmac key m).extractLsb' 0 32) := take_four_blockBytes _

@[simp] theorem wireWord_length (a : Word) : (wireWord a).length = 4 := rfl
@[simp] theorem wireHalf_length (f : BitVec 16) : (wireHalf f).length = 2 := rfl
@[simp] theorem cmacMic_length (key : Block) (m : List Byte) : (cmacMic key m).length = 4 := by
  simp [cmacMic_eq]
@[simp] theorem dataMic_length (key : Block) (d : BitVec 1) (a : Word) (f : BitVec 16)
    (m : List Byte) : (dataMic key d a f m).length = 4 := by simp [dataMic]

@[simp] theorem xorBytes_length (a b : List Byte) :
    (xorBytes a b).length = min a.length b.length := by simp [xorBytes]

theorem byteAt_xorBytes (a b : List Byte) {i : Nat} (h1 : i < a.length) (h2 : i < b.length) :
    byteAt (xorBytes a b) i = byteAt a i ^^^ byteAt b i := by
  rw [byteAt_eq_getElem _ (by simp; omega), byteAt_eq_getElem _ h1, byteAt_eq_getElem _ h2]
  simp [xorBytes]

/-- Adding a stream of 16-byte blocks to a string, block by block. -/
theorem byteAt_flatMap_xor (p : List Byte) (g : Nat → List Byte) (hg : ∀ j, (g j).length = 16) (n : Nat) :
    ((List.range n).flatMap fun j => xorBytes (slice p (16 * j) (16 * j + 16)) (g j)).length
      = min p.length (16 * n) ∧
    ∀ i, i < min p.length (16 * n) →
      byteAt ((List.range n).flatMap fun j => xorBytes (slice p (16 * j) (16 * j + 16)) (g j)) i
        = byteAt p i ^^^ byteAt (g (i / 16)) (i % 16) := by
  induction n with
  | zero => simp
  | succ n ih =>
    obtain ⟨ih1, ih2⟩ := ih
    rw [List.range_succ, List.flatMap_append]
    simp only [List.flatMap_cons, List.flatMap_nil, List.append_nil]
    constructor
    · rw [List.length_append, ih1, xorBytes_length, slice_length, hg]; omega
    · intro i hi
      rw [byteAt_append, ih1]
      split
      · exact ih2 i ‹_›
      · have h3 : min p.length (16 * n) = 16 * n := by omega
        rw [h3, byteAt_xorBytes _ _ (by rw [slice_length]; omega) (by rw [hg]; omega),
          byteAt_slice _ (by omega), show 16 * n + (i - 16 * n) = i by omega,
          show i / 16 = n by omega, show i % 16 = i - 16 * n by omega]

/-- Masking adds to byte `i` byte `i mod 16` of keystream block `i / 16 + 1` (41_mask_mic R117). -/
theorem maskBytes_spec (key : Block) (d : BitVec 1) (a : Word) (f : BitVec 16) (p : List Byte) :
    (maskBytes key d a f p).length = p.length ∧
    ∀ i, i < p.length → byteAt (maskBytes key d a f p) i =
      byteAt p i ^^^ byteAt (blockBytes (keystream key d a f (i / 16 + 1))) (i % 16) := by
  obtain ⟨h1, h2⟩ := byteAt_flatMap_xor p (fun j => blockBytes (keystream key d a f (j + 1)))
    (fun j => blockBytes_length _) ((p.length + 15) / 16)
  exact ⟨h1.trans (by omega), fun i hi => h2 i (by omega)⟩

@[simp] theorem maskBytes_length (key : Block) (d : BitVec 1) (a : Word) (f : BitVec 16)
    (p : List Byte) : (maskBytes key d a f p).length = p.length := (maskBytes_spec key d a f p).1

end Sys2Proof.Machine
end

