-- ==== Sys2Proof/Laws/Frame.lean ====
section
/-! SUPPORT. The frame serializer: the fields COMPOSE reads, the parser, and what a COMPOSE that
ends without error did (42_frame R134 to R137). -/

namespace Sys2Proof.Machine

theorem isData_eq (t : BitVec 3) : isData t = decide (2 ≤ t.toNat ∧ t.toNat ≤ 5) := by
  revert t; decide

theorem isData_ne_false {t : BitVec 3} (h1 : 2 ≤ t.toNat) (h2 : t.toNat ≤ 5) : ¬ isData t = false := by
  simp [isData_eq, h1, h2]

theorem isData_eq_false {t : BitVec 3} (h : ¬ (2 ≤ t.toNat ∧ t.toNat ≤ 5)) : isData t = false := by
  rw [isData_eq]; exact decide_eq_false h

/-- The direction of a data type is its lowest bit (44_session_classify R172). -/
theorem dirOf_data {t : BitVec 3} (h1 : 2 ≤ t.toNat) (h2 : t.toNat ≤ 5) : dirOf t = t.extractLsb' 0 1 := by
  revert t; decide

theorem maxplOf_le {p : Config.Params} {f : BitVec 8} {m : Nat} (h : maxplOf p f = some m) : m ≤ 242 := by
  unfold maxplOf at h
  obtain ⟨a, -, rfl⟩ := Option.map_eq_some_iff.1 h
  omega

theorem sessionMaxpl_of_some {s : State} {m : Nat} (h : maxplOf s.cfg s.sessFmt = some m) :
    sessionMaxpl s = m := by
  simp [sessionMaxpl, h]

theorem composeLength_eq (fl pl : Nat) :
    composeLength fl pl = if pl = 0 then 12 + fl else 13 + fl + pl := by
  unfold composeLength; split <;> split <;> omega

theorem foptsLen_field (s : State) :
    BitVec.ofNat 4 (arg1FoptsLen s) = s.arg1.extractLsb' 0 4 := by
  apply BitVec.eq_of_toNat_eq
  simp only [arg1FoptsLen, BitVec.extractLsb'_toNat, BitVec.toNat_ofNat]
  omega

theorem maskBytes_nil (k : Block) (d : BitVec 1) (a : Word) (f : BitVec 16) :
    maskBytes k d a f [] = [] :=
  List.eq_nil_of_length_eq_zero (by simp)

theorem composeFrame_length (s : State) :
    (composeFrame s).length = composeLength (arg1FoptsLen s) (arg0N s) := by
  simp only [composeFrame, composeLength]
  split <;> simp <;> omega

/-- A COMPOSE that ends without error: its checks passed, and this is its whole effect. -/
theorem compose_ok {s u : State} (h : exec .compose s = .next u) (hr : u.result = 0) :
    s.sessValid = true ∧ isData (arg1Mtype s) = true ∧ arg0N s ≤ sessionMaxpl s ∧
      arg1FoptsLen s ≤ 15 ∧ composeLength (arg1FoptsLen s) (arg0N s) ≤ 255 ∧
      u = complete .noError (storeObuf (composeFrame s)
        { s with res0 := BitVec.ofNat 32 (composeLength (arg1FoptsLen s) (arg0N s)) }) := by
  have h : execCompose s = .next u := h
  unfold execCompose at h
  have h := Host.Outcome.next.inj h
  subst h
  revert hr
  split; · simp [resultBits]
  split; · simp [resultBits]
  split; · simp [resultBits]
  split; · simp [resultBits]
  split; · simp [resultBits]
  rename_i h1 h2 h3 h4 h5
  intro _
  exact ⟨by simpa using h1, by simpa using h2, by omega, by omega, by simpa [maxFrameLen] using h5, rfl⟩

/-! ### Slices of two, three and four bytes -/

theorem slice_four (b : List Byte) (i : Nat) (h : i + 4 ≤ b.length) :
    slice b i (i + 4) = [byteAt b i, byteAt b (i + 1), byteAt b (i + 2), byteAt b (i + 3)] := by
  apply bytes_ext (by simp; omega)
  intro k hk
  simp only [slice_length] at hk
  have : k < 4 := by omega
  rw [byteAt_slice _ (by omega)]
  interval_cases k <;> rfl

theorem slice_three (b : List Byte) (i : Nat) (h : i + 3 ≤ b.length) :
    slice b i (i + 3) = [byteAt b i, byteAt b (i + 1), byteAt b (i + 2)] := by
  apply bytes_ext (by simp; omega)
  intro k hk
  simp only [slice_length] at hk
  have : k < 3 := by omega
  rw [byteAt_slice _ (by omega)]
  interval_cases k <;> rfl

theorem slice_two (b : List Byte) (i : Nat) (h : i + 2 ≤ b.length) :
    slice b i (i + 2) = [byteAt b i, byteAt b (i + 1)] := by
  apply bytes_ext (by simp; omega)
  intro k hk
  simp only [slice_length] at hk
  have : k < 2 := by omega
  rw [byteAt_slice _ (by omega)]
  interval_cases k <;> rfl

theorem slice_nil (b : List Byte) {i j : Nat} (h : j ≤ i) : slice b i j = [] :=
  List.eq_nil_of_length_eq_zero (by simp; omega)

theorem byteAt_ibuf_zero (s : State) {n k : Nat} (h : k < n) :
    byteAt (ibuf s 0 n) k = byteOf s (0x100 + k) := by
  rw [byteAt_ibuf _ (by omega)]; rfl

/-! ### The parser -/

/-- What `Parse` answers: the first check that fails, or the header (42_frame R136). -/
theorem parseFrame_cases (n : Nat) (b : List Byte) :
    ((n < 12 ∨ 255 < n) ∧ parseFrame n b = .error .lengthError) ∨
    (12 ≤ n ∧ n ≤ 255 ∧ (isData (mhdrMtype (byteAt b 0)) = false ∨ n < 12 + fctrlFoptsLen (byteAt b 5)) ∧
      parseFrame n b = .error .headerError) ∨
    (12 ≤ n ∧ n ≤ 255 ∧ isData (mhdrMtype (byteAt b 0)) = true ∧ 12 + fctrlFoptsLen (byteAt b 5) ≤ n ∧
      parseFrame n b = .ok (headerOf n b)) := by
  unfold parseFrame maxFrameLen
  by_cases h1 : n < 12 ∨ 255 < n
  · exact .inl ⟨h1, if_pos h1⟩
  · refine .inr ?_
    rw [if_neg h1]
    by_cases h2 : isData (mhdrMtype (byteAt b 0)) = false
    · exact .inl ⟨by omega, by omega, .inl h2, if_pos h2⟩
    · rw [if_neg h2]
      by_cases h3 : n < 12 + fctrlFoptsLen (byteAt b 5)
      · exact .inl ⟨by omega, by omega, .inr h3, if_pos h3⟩
      · exact .inr ⟨by omega, by omega, by simpa using h2, by omega, if_neg h3⟩

/-- The address and the counter of a parsed frame, byte by byte (42_frame R136). -/
theorem headerOf_addr_fcnt {n : Nat} {b : List Byte} (h : 12 ≤ b.length) :
    (headerOf n b).addr = byteAt b 4 ++ byteAt b 3 ++ byteAt b 2 ++ byteAt b 1 ∧
      (headerOf n b).fcnt = byteAt b 7 ++ byteAt b 6 := by
  constructor
  · simp only [headerOf]
    rw [slice_four b 1 (by omega), ofNat_fromLE_four]
  · simp only [headerOf]
    rw [slice_two b 6 (by omega), ofNat_fromLE_two]

theorem headerOf_payloadLen (n : Nat) (b : List Byte) :
    (headerOf n b).payloadLen = n - 13 - fctrlFoptsLen (byteAt b 5) := by
  simp only [headerOf, decide_eq_true_eq]; split <;> omega

/-- DECODE writes as many bytes of OBUF as options and payload have (42_frame R137). -/
theorem decoded_length {s : State} {n : Nat} {b : List Byte} (hb : b.length = n)
    (h : 12 + fctrlFoptsLen (byteAt b 5) ≤ n) :
    (slice b 8 (8 + (headerOf n b).foptsLen) ++ framePlain s (headerOf n b) b).length =
      (headerOf n b).foptsLen + (headerOf n b).payloadLen := by
  have hfl : (headerOf n b).foptsLen = fctrlFoptsLen (byteAt b 5) := rfl
  have hpp : (headerOf n b).portPresent = decide (1 ≤ n - 12 - fctrlFoptsLen (byteAt b 5)) := rfl
  unfold framePlain framePayload
  rw [List.length_append, slice_length, headerOf_payloadLen, hfl, hpp]
  by_cases hq : 1 ≤ n - 12 - fctrlFoptsLen (byteAt b 5)
  · simp only [hq, decide_true, if_true, maskBytes_length, slice_length]; omega
  · simp [hq]; omega

end Sys2Proof.Machine
end

