-- ==== Sys2Proof/Laws/Join.lean ====
section
/-! SUPPORT. The join-accept plaintext and what a JOIN_ACCEPT that ends without error did
(43_join R153, R156). -/

namespace Sys2Proof.Machine

theorem unwrapJoinAccept_17 (u : Config.JaUnwrap) (k : Block) (b : List Byte) :
    unwrapJoinAccept u k 17 b =
      [byteAt b 0] ++ blockBytes (unwrapBlock u k (bytesBlock (slice b 1 17))) := by
  simp [unwrapJoinAccept, List.range_succ]

theorem unwrapJoinAccept_33 (u : Config.JaUnwrap) (k : Block) (b : List Byte) :
    unwrapJoinAccept u k 33 b =
      [byteAt b 0] ++ blockBytes (unwrapBlock u k (bytesBlock (slice b 1 17))) ++
        blockBytes (unwrapBlock u k (bytesBlock (slice b 17 33))) := by
  simp [unwrapJoinAccept, List.range_succ]

theorem joinPlain_length {s : State} (h : arg0N s = 17 ∨ arg0N s = 33) :
    (joinPlain s).length = arg0N s := by
  unfold joinPlain
  rcases h with h | h <;> rw [h]
  · rw [unwrapJoinAccept_17]; simp
  · rw [unwrapJoinAccept_33]; simp

theorem joinRequest_length (s : State) :
    (joinRequestBody s ++ cmacMic s.appkey (joinRequestBody s)).length = 23 := by
  simp [joinRequestBody]

/-- A JOIN_ACCEPT that ends without error: its checks passed, and this is its whole effect. -/
theorem joinAccept_ok {s t : State} (h : exec .joinAccept s = .next t) (hr : t.result = 0) :
    (arg0N s = 17 ∨ arg0N s = 33) ∧
      cmacMic s.appkey (slice (joinPlain s) 0 (arg0N s - 4)) =
        slice (joinPlain s) (arg0N s - 4) (arg0N s) ∧
      t = complete .noError (joinOutputs (arg0N s) (joinPlain s) s) := by
  have h' : execJoinAccept s = .next t := h
  unfold execJoinAccept at h'
  simp only at h'
  split at h'
  · cases h'; simp [resultBits] at hr
  · split at h'
    · cases h'; simp [resultBits] at hr
    · rename_i h2
      cases h'; exact ⟨by omega, by simpa using h2, rfl⟩

end Sys2Proof.Machine
end

