-- ==== Sys2Proof/Laws/PerInstr.lean ====
section
/-! SUPPORT. The per-instruction family `EncodingForm`: the form of a command's word
(30_encoding R70, R71). -/

namespace Sys2Proof.Laws.EncodingForm

/-- The command is well-formed, its word has its opcode in `[7:0]` and zero in `[31:8]`, and no
other command's opcode is the same. -/
def Statement (i : Instr) : Prop :=
  i.wellFormed = true ∧ (encode i).extractLsb' 0 8 = opcode i ∧ (encode i).extractLsb' 8 24 = 0 ∧
  ∀ j, opcode j = opcode i → j = i

theorem aesEnc : Statement .aesEnc :=
  ⟨rfl, by decide, by decide, fun j h => by cases j <;> first | rfl | (revert h; decide)⟩

theorem aesDec : Statement .aesDec :=
  ⟨rfl, by decide, by decide, fun j h => by cases j <;> first | rfl | (revert h; decide)⟩

theorem mask : Statement .mask :=
  ⟨rfl, by decide, by decide, fun j h => by cases j <;> first | rfl | (revert h; decide)⟩

theorem cmac : Statement .cmac :=
  ⟨rfl, by decide, by decide, fun j h => by cases j <;> first | rfl | (revert h; decide)⟩

theorem dataMic : Statement .dataMic :=
  ⟨rfl, by decide, by decide, fun j h => by cases j <;> first | rfl | (revert h; decide)⟩

theorem compose : Statement .compose :=
  ⟨rfl, by decide, by decide, fun j h => by cases j <;> first | rfl | (revert h; decide)⟩

theorem decode : Statement .decode :=
  ⟨rfl, by decide, by decide, fun j h => by cases j <;> first | rfl | (revert h; decide)⟩

theorem getAddress : Statement .getAddress :=
  ⟨rfl, by decide, by decide, fun j h => by cases j <;> first | rfl | (revert h; decide)⟩

theorem getHeader : Statement .getHeader :=
  ⟨rfl, by decide, by decide, fun j h => by cases j <;> first | rfl | (revert h; decide)⟩

theorem joinReq : Statement .joinReq :=
  ⟨rfl, by decide, by decide, fun j h => by cases j <;> first | rfl | (revert h; decide)⟩

theorem joinAccept : Statement .joinAccept :=
  ⟨rfl, by decide, by decide, fun j h => by cases j <;> first | rfl | (revert h; decide)⟩

theorem sessionLoad : Statement .sessionLoad :=
  ⟨rfl, by decide, by decide, fun j h => by cases j <;> first | rfl | (revert h; decide)⟩

theorem sessionClear : Statement .sessionClear :=
  ⟨rfl, by decide, by decide, fun j h => by cases j <;> first | rfl | (revert h; decide)⟩

theorem getDirection : Statement .getDirection :=
  ⟨rfl, by decide, by decide, fun j h => by cases j <;> first | rfl | (revert h; decide)⟩

theorem ackRequest : Statement .ackRequest :=
  ⟨rfl, by decide, by decide, fun j h => by cases j <;> first | rfl | (revert h; decide)⟩

theorem maxPayload : Statement .maxPayload :=
  ⟨rfl, by decide, by decide, fun j h => by cases j <;> first | rfl | (revert h; decide)⟩

end Sys2Proof.Laws.EncodingForm
end

