-- ==== Sys2Proof/Laws/Registers.lean ====
section
/-! SUPPORT. The register window: where each offset leads, and what one read and one write can do
(10_state R22 to R49). -/

namespace Sys2Proof.Machine

/-- The first offset of a register (10_state R22); for a reserved word, 0. -/
def Reg.base : Reg → Nat
  | .cmd => 0x000 | .status => 0x004 | .irqEn => 0x008
  | .arg0 => 0x010 | .arg1 => 0x014 | .arg2 => 0x018
  | .res0 => 0x020 | .res1 => 0x024 | .res2 => 0x028
  | .key => 0x030 | .blkIn => 0x040 | .blkOut => 0x050
  | .sessCfg => 0x060 | .sessNetid => 0x064 | .sessDevaddr => 0x068
  | .sessNwkskey => 0x070 | .sessAppskey => 0x080
  | .stgFmt => 0x090 | .stgNetid => 0x094 | .stgDevaddr => 0x098
  | .stgNwkskey => 0x0A0 | .stgAppskey => 0x0B0
  | .appeui => 0x0C0 | .deveui => 0x0C8
  | .devnonce => 0x0D0 | .jaAppnonce => 0x0D4 | .jaInfo => 0x0D8
  | .appkey => 0x0E0 | .jaCflist => 0x0F0
  | .ibuf => 0x100 | .obuf => 0x200 | .reserved => 0

/-- How many words a register has (10_state R22). -/
def Reg.words : Reg → Nat
  | .key | .blkIn | .blkOut | .sessNwkskey | .sessAppskey | .stgNwkskey | .stgAppskey
  | .appkey | .jaCflist => 4
  | .appeui | .deveui => 2
  | .ibuf | .obuf => 64
  | .reserved => 0
  | _ => 1

/-- An aligned offset that is not reserved is the register's first offset plus four times the
index of the word. -/
theorem locate_spec : ∀ off : Nat, off < 1024 → off % 4 = 0 → (locate off).1 ≠ .reserved →
    off = (locate off).1.base + 4 * (locate off).2 ∧ (locate off).2 < (locate off).1.words := by
  decide +kernel

/-- Registers whose words a host write stores in (10_state R22: RW), with the bits it stores. -/
def Reg.writableBits : Reg → Option Word
  | .stgFmt => some 0x000000FF
  | .stgNetid => some 0x00FFFFFF
  | .devnonce => some 0x0000FFFF
  | .arg0 | .arg1 | .arg2 | .key | .blkIn | .stgDevaddr | .stgNwkskey | .stgAppskey
  | .appeui | .deveui | .appkey | .ibuf => some 0xFFFFFFFF
  | _ => none

theorem bufWord_congr {s t : State} {base i : Nat}
    (h : ∀ x, base + 4 * i ≤ x → x < base + 4 * i + 4 → byteOf t x = byteOf s x) :
    bufWord t base i = bufWord s base i := by
  rw [bufWord, bufWord, bytesFrom_congr h]

/-- A word of a buffer, byte by byte (10_state R40). -/
theorem bufWord_eq (s : State) (base i : Nat) :
    bufWord s base i = byteOf s (base + 4 * i + 3) ++ byteOf s (base + 4 * i + 2)
      ++ byteOf s (base + 4 * i + 1) ++ byteOf s (base + 4 * i) := by
  rw [bufWord]
  exact ofNat_fromLE_four _ _ _ _

/-- A byte after a word write of a buffer. -/
theorem byteOf_writeBytes (s : State) (a x : Nat) (b : List Byte) :
    byteOf { s with mem := s.mem.writeBytes a b } x =
      if a ≤ x ∧ x < a + b.length then byteAt b (x - a) else byteOf s x := by
  simp only [byteOf, find_writeBytes]
  split <;> rfl

theorem bufWord_write_same (s : State) (base i : Nat) (v : Word) :
    bufWord { s with mem := s.mem.writeBytes (base + 4 * i) (le 4 v.toNat) } base i = v := by
  have hb : bytesFrom { s with mem := s.mem.writeBytes (base + 4 * i) (le 4 v.toNat) }
      (base + 4 * i) 4 = le 4 v.toNat := by
    apply bytes_ext (by simp)
    intro k hk
    simp only [bytesFrom_length] at hk
    rw [byteAt_bytesFrom _ _ hk, byteOf_writeBytes, if_pos (by simp only [le_length]; omega)]
    congr 1; omega
  rw [bufWord, hb, fromLE_le]
  apply BitVec.eq_of_toNat_eq
  have := v.isLt
  simp only [BitVec.toNat_ofNat]; omega

theorem setWidth_extract_and (v : Word) {n : Nat} (m : Word) (_ : n ≤ 32)
    (hm : ∀ k, k < 32 → m.getLsbD k = decide (k < n)) :
    (v.extractLsb' 0 n).setWidth 32 = v &&& m := by
  apply BitVec.eq_of_getLsbD_eq
  intro k hk
  simp only [BitVec.getLsbD_setWidth, BitVec.getLsbD_extractLsb', BitVec.getLsbD_and, hm k hk, hk,
    decide_true, Bool.true_and, Nat.zero_add]
  rw [Bool.and_comm]

/-- What a write to a writable register stores reads back (20_memory R52). -/
theorem readReg_writeReg_same (s : State) (v m : Word) (r : Reg) (i : Nat)
    (hr : r.writableBits = some m) (hi : i < r.words) :
    readReg (writeReg v s r i) r i = v &&& m := by
  have hv : v &&& 0xFFFFFFFF = v := BitVec.and_allOnes
  cases r <;> simp only [Reg.writableBits, reduceCtorEq, Option.some.injEq] at hr <;> subst hr <;>
    simp only [Reg.words] at hi <;>
    simp only [writeReg, readReg, bufWord_write_same, hv] <;>
    first
    | exact getWord_setWord_same _ _ _ (by omega)
    | exact setWidth_extract_and v _ (by decide) (by decide)

/-- A write to a writable register leaves every other word of the window (20_memory R52, R53). -/
theorem readReg_writeReg_other (s : State) (v m : Word) (r r' : Reg) (i i' : Nat)
    (hr : r.writableBits = some m) (h : r' = r → i' ≠ i)
    (hi : i < r.words) (hi' : i' < r'.words) :
    readReg (writeReg v s r i) r' i' = readReg s r' i' := by
  by_cases hrr : r' = r
  · subst hrr
    have hne := h rfl
    cases r' <;> simp only [Reg.writableBits, reduceCtorEq] at hr <;> simp only [Reg.words] at hi hi' <;>
      first
      | omega
      | exact getWord_setWord_other _ _ hne
      | skip
    refine bufWord_congr fun x h1 h2 => ?_
    simp only [writeReg, byteOf_writeBytes, le_length]
    rw [if_neg (by omega)]
  · cases r <;> simp only [Reg.writableBits, reduceCtorEq] at hr <;>
      cases r' <;> first | rfl | exact absurd rfl hrr | skip
    simp only [Reg.words] at hi hi'
    refine bufWord_congr fun x h1 h2 => ?_
    simp only [writeReg, byteOf_writeBytes, le_length, ibufBase, obufBase] at *
    rw [if_neg (by omega)]

/-- All that an accepted read can do (20_memory R52, R56): answer the stored value and change
nothing, or answer a free draw and count it. -/
theorem busRead_cases (off : Nat) (s : State) :
    busRead off s =
        (readReg s (locate off).1 (locate off).2, s) ∧
        ¬ (s.busy = true ∧ readsFreeWhileBusy (locate off).1 = true) ∨
    busRead off s = (Config.busyRead s.draws, { s with draws := s.draws + 1 }) ∧
        s.busy = true ∧ readsFreeWhileBusy (locate off).1 = true := by
  unfold busRead
  by_cases h : (s.busy && readsFreeWhileBusy (locate off).1) = true
  · right; simp only [h, if_true]; exact ⟨rfl, by simpa using h⟩
  · left; simp only [h]; exact ⟨rfl, by simpa using h⟩

/-- With no command running, a read answers the stored value. -/
theorem busRead_idle (off : Nat) (s : State) (h : s.busy = false) :
    busRead off s = (readReg s (locate off).1 (locate off).2, s) := by
  simp [busRead, h]

/-- With no command running, a write reaches its register. -/
theorem busWrite_idle (off : Nat) (v : Word) (s : State) (h : s.busy = false) :
    busWrite off v s = writeReg v s (locate off).1 (locate off).2 := by
  simp [busWrite, h]

/-- All that an accepted write can do while a command runs (10_state R48): set WERR, or write
STATUS or IRQ_EN, or nothing. -/
theorem busWrite_busy (off : Nat) (v : Word) (s : State) (h : s.busy = true) :
    busWrite off v s = setWerr s ∨ busWrite off v s = writeStatus v s ∨
      busWrite off v s = writeIrqEn v s ∨ busWrite off v s = s := by
  unfold busWrite
  generalize locate off = l
  obtain ⟨r, i⟩ := l
  cases r <;> simp [h, lockedWhileBusy, writeReg]

/-- All that the access of a cycle can do. -/
theorem busAccess_ok {p : BusCycle} {s s' : State} (h : busAccess p s = .ok s') :
    (p.sel = false ∧ s' = { s with response := none }) ∨
    (p.sel = true ∧ p.wordAccess = true ∧ p.we = true ∧
      s' = { busWrite p.addr.toNat p.wdata s with response := some { rdata := none, err := false } }) ∨
    (p.sel = true ∧ p.wordAccess = true ∧ p.we = false ∧
      s' = { (busRead p.addr.toNat s).2 with
        response := some { rdata := some (busRead p.addr.toNat s).1, err := false } }) := by
  unfold busAccess at h
  split at h
  · rename_i hs; exact .inl ⟨hs, (Except.ok.inj h).symm⟩
  · rename_i hs
    rw [Bool.not_eq_false] at hs
    split at h
    · cases h
    · rename_i hw
      rw [Bool.not_eq_false] at hw
      split at h
      · rename_i he; exact .inr (.inl ⟨hs, hw, he, (Except.ok.inj h).symm⟩)
      · rename_i he
        rw [Bool.not_eq_true] at he
        exact .inr (.inr ⟨hs, hw, he, (Except.ok.inj h).symm⟩)

/-- The access of a cycle is refused exactly when it is no aligned word access (20_memory R51). -/
theorem busAccess_error {p : BusCycle} {s : State} {r : Refusal} :
    busAccess p s = .error r ↔
      p.sel = true ∧ p.wordAccess = false ∧ r = .unsupportedAccess 0 true := by
  unfold busAccess
  split
  · rename_i hs; simp only [reduceCtorEq, hs, Bool.false_eq_true, false_and]
  · rename_i hs
    rw [Bool.not_eq_false] at hs
    split
    · rename_i hw; simp only [Except.error.injEq, hs, hw, true_and, eq_comm]
    · rename_i hw
      rw [Bool.not_eq_false] at hw
      constructor
      · split <;> exact (fun h => by cases h)
      · rintro ⟨-, hf, -⟩; rw [hw] at hf; cases hf

end Sys2Proof.Machine
end

