-- ==== Sys2Proof/Laws/Step.lean ====
section
/-! SUPPORT. What one clock cycle can do, once (20_memory R50, 60_exceptions R192, 70_reset_and_hazards
R210). -/

namespace Sys2Proof.Machine

/-- The completion step of PENDING, in the terms of claims. -/
theorem runPending_eq_next {s t : State} : runPending s = .next t ↔ CompletesTo s t := by
  unfold runPending CompletesTo
  cases decode s.pending with
  | command i => simp
  | illegal r => simp [eq_comm (a := t)]; rfl

/-- A completion step ends with BUSY = 0 and changes no input (10_state R22, 60_exceptions R192). -/
theorem CompletesTo.status_and_inputs {s t : State} (h : CompletesTo s t) :
    t.busy = false ∧ t.done = true ∧ ∃ u, SameInputs s u ∧ t = { u with
      busy := false, done := true, result := t.result } := by
  rcases h with ⟨i, -, h⟩ | ⟨r, -, rfl⟩
  · obtain ⟨code, u, h1, h2, -, -⟩ := exec_completes i s
    rw [h1] at h; cases h
    exact ⟨rfl, rfl, u, h2, rfl⟩
  · exact ⟨rfl, rfl, s, rfl, rfl⟩

/-- The access of a cycle keeps the host's list. -/
theorem busAccess_host {p : BusCycle} {s s' : State} (h : busAccess p s = .ok s') :
    s'.host = s.host := by
  rcases busAccess_ok h with ⟨_, rfl⟩ | ⟨_, _, _, rfl⟩ | ⟨_, _, _, rfl⟩
  · rfl
  · show (busWrite _ _ _).host = s.host
    unfold busWrite
    generalize locate p.addr.toNat = l
    obtain ⟨r, i⟩ := l
    simp only
    split
    · rfl
    · cases r <;> rfl
  · rcases busRead_cases p.addr.toNat s with ⟨h, _⟩ | ⟨h, _⟩ <;> rw [h]

/-- The access of a cycle in which a command is running changes nothing but the flags the host may
write, the count of draws and the response (10_state R48, R49). -/
theorem busAccess_busy {p : BusCycle} {s s' : State} (hb : s.busy = true) (h : busAccess p s = .ok s') :
    s' = { s with
      done := s'.done
      werr := s'.werr
      doneIe := s'.doneIe
      draws := s'.draws
      response := s'.response } ∧ (s.done = false → s'.done = false) := by
  rcases busAccess_ok h with ⟨_, rfl⟩ | ⟨_, _, _, rfl⟩ | ⟨_, _, _, rfl⟩
  · exact ⟨rfl, id⟩
  · rcases busWrite_busy p.addr.toNat p.wdata s hb with h | h | h | h <;> rw [h]
    · exact ⟨rfl, id⟩
    · exact ⟨rfl, fun hd => by simp [writeStatus, hd]⟩
    · exact ⟨rfl, id⟩
    · exact ⟨rfl, id⟩
  · rcases busRead_cases p.addr.toNat s with ⟨h, _⟩ | ⟨h, _⟩ <;> rw [h]
    · exact ⟨rfl, id⟩
    · exact ⟨rfl, id⟩

/-- All that a clock cycle can do: the reset; or the access alone; or the access and one cycle less of
the running command; or the access and the completion step, of an illegal word or of a command. -/
theorem step_cases {s t : State} (h : step s = .next t) :
    ((currentPins s).rst = true ∧ t = resetCycle (advanceHost s)) ∨
    (currentPins s).rst = false ∧ ∃ s', busAccess (currentPins s) (advanceHost s) = .ok s' ∧
      ((s.busy = false ∧ t = s') ∨
       (s.busy = true ∧ 1 < s.remaining ∧ t = { s' with remaining := s'.remaining - 1 }) ∨
       (s.busy = true ∧ s.remaining ≤ 1 ∧ (∃ r, decode s.pending = .illegal r) ∧
         t = complete .cmdError { s' with remaining := 0 }) ∨
       (s.busy = true ∧ s.remaining ≤ 1 ∧ ∃ i, decode s.pending = .command i ∧
         exec i { s' with remaining := 0 } = .next t)) := by
  unfold step clockCycle at h
  by_cases hr : (currentPins s).rst = true
  · simp only [hr, if_true, Host.Outcome.next.injEq] at h
    exact .inl ⟨hr, h.symm⟩
  · rw [Bool.not_eq_true] at hr
    simp only [hr, Bool.false_eq_true, if_false] at h
    refine .inr ⟨hr, ?_⟩
    cases ha : busAccess (currentPins s) (advanceHost s) with
    | error r => rw [ha] at h; cases h
    | ok s' =>
      refine ⟨s', rfl, ?_⟩
      rw [ha] at h
      simp only at h
      by_cases hb : s.busy = true
      · simp only [hb, if_true] at h
        obtain ⟨hs, -⟩ := busAccess_busy (s := advanceHost s) hb ha
        have hrem : s'.remaining = s.remaining := by rw [hs]; rfl
        have hpen : s'.pending = s.pending := by rw [hs]; rfl
        unfold coreEdge at h
        by_cases hc : s'.remaining ≤ 1
        · rw [if_pos hc] at h
          unfold runPending at h
          have hd : decode ({ s' with remaining := 0 } : State).pending = decode s.pending := by
            show decode s'.pending = _; rw [hpen]
          rw [hd] at h
          cases hdec : decode s.pending with
          | command i =>
            rw [hdec] at h
            exact .inr (.inr (.inr ⟨hb, by omega, i, rfl, h⟩))
          | illegal r =>
            rw [hdec] at h
            exact .inr (.inr (.inl ⟨hb, by omega, ⟨r, rfl⟩, (Host.Outcome.next.inj h).symm⟩))
        · rw [if_neg hc] at h
          exact .inr (.inl ⟨hb, by omega, (Host.Outcome.next.inj h).symm⟩)
      · rw [Bool.not_eq_true] at hb
        rw [hb] at h
        exact .inl ⟨hb, (Host.Outcome.next.inj h).symm⟩

end Sys2Proof.Machine
end

