-- ==== Sys2Proof/Tests/Slice0.lean ====
section
/-! SUPPORT. The model's own tests: words of 30_encoding R71, vectors of 95_test_vectors, and for
every statement with hypotheses a state that meets them. -/

open Sys2Proof Sys2Proof.Machine

namespace Sys2Proof.Tests

-- One theorem after the other: run at once, their kernel evaluations exceed the memory limit.
set_option Elab.async false

/-! ### Encoding -/

theorem test_decode_aesEnc :
    decode 0b00000000000000000000000000000001 = .command .aesEnc := by decide
theorem test_decode_aesDec :
    decode 0b00000000000000000000000000000010 = .command .aesDec := by decide
theorem test_decode_mask :
    decode 0b00000000000000000000000000000011 = .command .mask := by decide
theorem test_decode_cmac :
    decode 0b00000000000000000000000000000100 = .command .cmac := by decide
theorem test_decode_dataMic :
    decode 0b00000000000000000000000000000101 = .command .dataMic := by decide
theorem test_decode_compose :
    decode 0b00000000000000000000000000010000 = .command .compose := by decide
theorem test_decode_decode :
    decode 0b00000000000000000000000000010001 = .command .decode := by decide
theorem test_decode_getAddress :
    decode 0b00000000000000000000000000010010 = .command .getAddress := by decide
theorem test_decode_getHeader :
    decode 0b00000000000000000000000000010011 = .command .getHeader := by decide
theorem test_decode_joinReq :
    decode 0b00000000000000000000000000100000 = .command .joinReq := by decide
theorem test_decode_joinAccept :
    decode 0b00000000000000000000000000100001 = .command .joinAccept := by decide
theorem test_decode_sessionLoad :
    decode 0b00000000000000000000000000110000 = .command .sessionLoad := by decide
theorem test_decode_sessionClear :
    decode 0b00000000000000000000000000110001 = .command .sessionClear := by decide
theorem test_decode_getDirection :
    decode 0b00000000000000000000000001000000 = .command .getDirection := by decide
theorem test_decode_ackRequest :
    decode 0b00000000000000000000000001000001 = .command .ackRequest := by decide
theorem test_decode_maxPayload :
    decode 0b00000000000000000000000001000010 = .command .maxPayload := by decide

/-- 30_encoding R79: OPC not listed. -/
theorem test_decode_unlisted : decode 0x00000006 = .illegal .unlistedOpcode := by decide
/-- 30_encoding R79: a bit of [31:8] set. -/
theorem test_decode_reserved : decode 0x00000101 = .illegal .reservedBits := by decide
theorem test_table_word : decodeTableWord 32 0x21 = some .joinAccept := by decide
theorem test_table_word_short : decodeTableWord 8 0x42 = some .maxPayload := by decide
theorem test_table_word_long : decodeTableWord 40 0x0100000001 = none := by decide

/-! ### WellFormed: each check refuses an ill-formed term (20_memory R51, V-BUS-7) -/

theorem test_refuses_byte_access :
    { writePins 0x010 5 with size := 0 }.wellFormed = false := by decide
theorem test_refuses_halfword_access :
    { writePins 0x010 5 with size := 1 }.wellFormed = false := by decide
theorem test_refuses_reserved_size :
    { readPins 0x010 with size := 3 }.wellFormed = false := by decide
theorem test_refuses_misaligned_access : (readPins 0x012).wellFormed = false := by decide
theorem test_accepts_word_access :
    (readPins 0x3FC).wellFormed = true ∧ idlePins.wellFormed = true ∧
      { resetPins with sel := true, size := 0 }.wellFormed = true := by decide
theorem test_host_op_refused :
    (HostOp.cycle (readPins 0x001)).wellFormed = false ∧ HostOp.poll.wellFormed = true := by decide
theorem test_commands_accepted : Instr.all.all Instr.wellFormed = true := by decide

/-! ### States for the tests (95_test_vectors section 1) -/

/-- The test configuration. -/
def cfgT : Config.Params := { maxpl := [(1, 51), (2, 242)], micInput := .wire, jaUnwrap := .dec }

/-- Reset, in the test configuration. -/
def base : State := { State.reset with cfg := cfgT }

/-- `K_SEQ`. -/
def kSeq : Block := 0x0F0E0D0C0B0A09080706050403020100

/-- `K_RFC`. -/
def kRfc : Block := 0x3C4FCF098815F7ABA6D2AE2816157E2B

/-- A state with a string in IBUF[0..), and its length in ARG0.N. -/
def withIbuf (b : List Byte) (s : State) : State :=
  { s with mem := s.mem.writeBytes 0x100 b, arg0 := BitVec.ofNat 32 b.length }

/-- Session S-A. -/
def sA : State := { base with
  sessFmt := 1, sessValid := true, sessNetid := 1, sessDevaddr := 0x01020304 }

/-- Session S-B. -/
def sB : State := { base with
  sessFmt := 1, sessValid := true, sessNetid := 0x13, sessDevaddr := 0x26012345,
  sessNwkskey := kSeq, sessAppskey := 0x1F1E1D1C1B1A19181716151413121110 }

/-- Session S-C. -/
def sC : State := { sA with sessFmt := 2 }

/-- The start of the join vectors. -/
def sJ : State := { base with
  appkey := kSeq, appeui := 0x70B3D57ED0000001, deveui := 0x0004A30B001C0530, devnonce := 0x1234 }

/-- A command running with one cycle to go. -/
def running (i : Instr) (s : State) : State :=
  { s with pending := encode i, busy := true, remaining := 1 }

/-- What `f` finds in the next state, if there is one. -/
def after {α : Type} (o : Host.Outcome State Fault Refusal) (f : State → α) : Option α :=
  match o with
  | .next t => some (f t)
  | .fault _ => none
  | .refused _ => none

/-- The frame of V-FRM-1. -/
def frame1 : List Byte := [0x40, 0x04, 0x03, 0x02, 0x01, 0x00, 0x00, 0x00, 0x01, 0x9C, 0x12, 0x10, 0x0C,
      0x59, 0xB5]

/-- The frame of V-FRM-1 with its last byte changed (V-FRM-3). -/
def frame3 : List Byte := frame1.take 14 ++ [0x4A]

/-- The frame of V-FRM-7, no PORT and no payload. -/
def frame7 : List Byte := [0x40, 0x45, 0x23, 0x01, 0x26, 0x00, 0x05, 0x00, 0x07, 0xCA, 0xF4, 0xC8]

/-- The join-accept of V-JA-1. -/
def accept1 : List Byte := [0x20, 0x60, 0x26, 0xFB, 0xEC, 0xCF, 0x27, 0xBA, 0x8F, 0xA0, 0x10, 0xC5, 0x45,
      0xAC, 0xE3, 0x26, 0xFA]

/-- The join-accept of V-JA-2. -/
def accept2 : List Byte := [0x20, 0xDF, 0x54, 0xF6, 0x07, 0x54, 0x9B, 0xC5, 0x06, 0xCF, 0xDF, 0x3F, 0x59,
      0x19, 0x22, 0xD8, 0x03, 0xAE, 0xE5, 0x14, 0xF5, 0xA8, 0x0B, 0x09, 0x52, 0xCC,
      0x4F, 0x00, 0xDA, 0x05, 0xC3, 0xCD, 0x9E]

/-- COMPOSE of V-FRM-1. -/
def compose1 : State := { withIbuf [0xAA, 0xBB] sA with arg1 := 0x00010200 }

/-! ### One step per command, against the vectors of 95_test_vectors section 4 -/

/-- V-AES-1. -/
theorem test_aesEnc :
    after (exec .aesEnc { base with key := kSeq, blkIn := 0xFFEEDDCCBBAA99887766554433221100 })
      (fun t => (t.blkOut, statusWord t)) =
      some (bytesBlock [0x69, 0xC4, 0xE0, 0xD8, 0x6A, 0x7B, 0x04, 0x30, 0xD8, 0xCD, 0xB7, 0x80, 0x70,
      0xB4, 0xC5, 0x5A], 0x00000002) := by decide +kernel
/-- V-AES-5. -/
theorem test_aesDec :
    after (exec .aesDec base) (·.blkOut) =
      some (bytesBlock [0x14, 0x0F, 0x0F, 0x10, 0x11, 0xB5, 0x22, 0x3D, 0x79, 0x58, 0x77, 0x17, 0xFF,
      0xD9, 0xEC, 0x3A]) := by decide +kernel
/-- V-MASK-3. -/
theorem test_mask :
    after (exec .mask { base with key := kSeq, arg0 := 0xFFFF1002, arg2 := 0x26012345 }) (·.blkOut) =
      some (bytesBlock [0x25, 0x8F, 0xB2, 0x5A, 0xBA, 0x8F, 0xFA, 0x03, 0x59, 0x59, 0x2F, 0xF7, 0x58,
      0xEB, 0x9B, 0x6C]) := by decide +kernel
/-- V-MASK-5. -/
theorem test_mask_index_256 :
    after (exec .mask { base with arg0 := 256 }) (fun t => (statusWord t, t.blkOut)) =
      some (0x00000012, 0) := by decide +kernel
/-- V-CMAC-2. -/
theorem test_cmac :
    after (exec .cmac (withIbuf [0x6B, 0xC1, 0xBE, 0xE2, 0x2E, 0x40, 0x9F, 0x96, 0xE9, 0x3D, 0x7E, 0x11, 0x73,
      0x93, 0x17, 0x2A]
      { base with key := kRfc })) (fun t => (t.blkOut, t.res0)) =
      some (bytesBlock [0x07, 0x0A, 0x16, 0xB4, 0x6B, 0x4D, 0x41, 0x44, 0xF7, 0x9B, 0xDD, 0x9D, 0xD0,
      0x4A, 0x28, 0x7C], 0xB4160A07) := by decide +kernel
/-- V-CMAC-7. -/
theorem test_cmac_257 :
    after (exec .cmac { base with arg0 := 257 }) statusWord = some 0x00000032 := by decide +kernel
/-- V-MIC-3. -/
theorem test_dataMic :
    after (exec .dataMic { withIbuf [0x60, 0x45, 0x23, 0x01, 0x26, 0x00, 0x02, 0x01] base with
      key := kSeq, arg0 := 0x01021008, arg2 := 0x26012345 }) (·.res0) =
      some 0x8815F359 := by decide +kernel
/-- V-FRM-1. -/
theorem test_compose :
    after (exec .compose compose1) (fun t => (bytesFrom t 0x200 15, t.res0, statusWord t)) =
      some (frame1, 15, 0x00010002) := by decide +kernel
/-- V-FRM-5: port 0, options, a confirmed type. -/
theorem test_compose_options :
    after (exec .compose { withIbuf [2, 3, 4, 1, 2, 3] sB with arg0 := 0x01020003, arg1 := 0x00008403 })
      (fun t => (bytesFrom t 0x200 19, t.res0)) =
      some ([0x80, 0x45, 0x23, 0x01, 0x26, 0x83, 0x02, 0x01, 0x02, 0x03, 0x04, 0x00, 0xAC,
      0xE3, 0xE5, 0xE9, 0x44, 0x29, 0x3B], 19) := by
  decide +kernel
/-- V-FRM-2. -/
theorem test_decode_frame :
    after (exec .decode (withIbuf frame1 sA))
      (fun t => (bytesFrom t 0x200 2, t.res0, t.res1, t.res2)) =
      some ([0xAA, 0xBB], 0x00001002, 0x40010200, 0x01020304) := by decide +kernel
/-- V-FRM-3. -/
theorem test_decode_frame_mic :
    after (exec .decode (withIbuf frame3 sA)) (fun t => (statusWord t, t.res2)) =
      some (0x00010022, 0) := by decide +kernel
/-- V-FRM-12c. -/
theorem test_getAddress :
    after (exec .getAddress (withIbuf frame1 base)) (fun t => (t.res0, t.res2, statusWord t)) =
      some (0, 0x01020304, 0x00000002) := by decide +kernel
/-- V-FRM-4. -/
theorem test_getHeader :
    after (exec .getHeader (withIbuf frame1 sA)) (fun t => (t.res0, t.res1, t.res2)) =
      some (0x00001002, 0x40010200, 0x01020304) := by decide +kernel
/-- V-JR-2. -/
theorem test_joinReq :
    after (exec .joinReq { sJ with devnonce := 0xFFFF }) (fun t => (bytesFrom t 0x200 23, t.res0)) =
      some ([0x00, 0x01, 0x00, 0x00, 0xD0, 0x7E, 0xD5, 0xB3, 0x70, 0x30, 0x05, 0x1C, 0x00,
      0x0B, 0xA3, 0x04, 0x00, 0xFF, 0xFF, 0x7B, 0x4C, 0x7B, 0xEA], 23) := by decide +kernel
/-- V-JA-1. -/
theorem test_joinAccept :
    after (exec .joinAccept (withIbuf accept1 sJ))
      (fun t => (t.stgNwkskey, t.stgNetid, t.stgDevaddr, t.jaInfo)) =
      some (bytesBlock [0x3F, 0x91, 0x5D, 0x54, 0xCC, 0x3D, 0x06, 0xFB, 0x76, 0xFA, 0xFD, 0x80, 0x0A,
      0x0C, 0xEB, 0x85],
        0x000013, 0x26012345, 0x12100112) := by decide +kernel
/-- V-JA-2. -/
theorem test_joinAccept_list :
    after (exec .joinAccept (withIbuf accept2 sJ))
      (fun t => (t.stgAppskey, t.jaCflist, t.jaInfo, t.res0)) =
      some (bytesBlock [0x32, 0x2C, 0xEC, 0x62, 0xF1, 0xB0, 0x67, 0x88, 0xBC, 0x43, 0x3E, 0x52, 0x11,
      0x31, 0xF9, 0x55],
        bytesBlock [0x18, 0x4F, 0x84, 0xE8, 0x56, 0x84, 0xB8, 0x5E, 0x84, 0x88, 0x66, 0x84, 0x58,
      0x6E, 0x84, 0x00],
        0x50010500, 33) := by decide +kernel
/-- V-SES-1. -/
theorem test_sessionLoad :
    after (exec .sessionLoad { base with stgFmt := 1, stgNetid := 1, stgDevaddr := 0x01020304 })
      (fun t => (sessCfgWord t, t.sessDevaddr, statusWord t)) =
      some (0x00010001, 0x01020304, 0x00010002) := by decide +kernel
/-- V-SES-5. -/
theorem test_sessionLoad_unsupported :
    after (exec .sessionLoad { sA with stgFmt := 7 }) (fun t => (sessCfgWord t, statusWord t)) =
      some (0x00010001, 0x00010012) := by decide +kernel
/-- V-SES-6. -/
theorem test_sessionClear :
    after (exec .sessionClear sB) (fun t => (sessCfgWord t, t.sessNwkskey, statusWord t)) =
      some (0, 0, 0x00000002) := by decide +kernel
/-- V-CLS-2. -/
theorem test_getDirection :
    after (exec .getDirection { base with arg1 := 0xFFFFFDFF }) (·.res0) = some 1 := by decide +kernel
/-- V-CLS-1, type 3. -/
theorem test_ackRequest :
    after (exec .ackRequest { base with arg1 := 0x00000300, res0 := 7 }) (·.res0) = some 0 := by
  decide +kernel
/-- V-SES-4. -/
theorem test_maxPayload :
    after (exec .maxPayload sA) (·.res0) = some 51 := by decide +kernel
/-- V-SES-3. -/
theorem test_maxPayload_no_session :
    after (exec .maxPayload base) statusWord = some 0x00000012 := by decide +kernel

/-! ### The bus, the interrupt and the reset (95_test_vectors section 4.8) -/

/-- V-BUS-2. -/
theorem test_bus_reserved_write :
    after (step { base with host := [.cycle (writePins 0x00C 0xFFFFFFFF)] }) statusWord = some 0 := by
  decide +kernel
/-- V-BUS-5. -/
theorem test_bus_netid_mask :
    after (step { base with stgNetid := 0xFFFFFF, host := [.cycle (readPins 0x094)] }) (·.response) =
      some (some { rdata := some 0x00FFFFFF, err := false }) := by decide +kernel
/-- V-BUS-7. -/
theorem test_bus_misaligned : ∃ r, step { base with host := [.cycle (readPins 0x012)] } = .refused r :=
  ⟨.unsupportedAccess 0 true, rfl⟩
/-- V-BUS-8: the write in a cycle in which a command runs is ignored and sets WERR. -/
theorem test_bus_locked_write :
    after (step { running .aesEnc base with
      remaining := 2, host := [.cycle (writePins 0x010 5)] }) (fun t => (t.arg0, statusWord t)) =
      some (0, 0x00000101) := by decide +kernel
/-- V-BUS-9. -/
theorem test_bus_clear_werr :
    after (step { base with done := true, werr := true, host := [.cycle (writePins 0x004 0x100)] })
      statusWord = some 0x00000002 := by decide +kernel
/-- V-BUS-12. -/
theorem test_bus_irq :
    after (step { running .aesEnc base with doneIe := true }) irq = some true := by decide +kernel
/-- V-BUS-14. -/
theorem test_bus_reset :
    after (step { running .compose compose1 with
      remaining := 2, host := [.cycle resetPins] }) (fun t => (sessCfgWord t, statusWord t, irq t)) =
      some (0, 0, false) := by decide +kernel
/-- V-AES-10. -/
theorem test_illegal_word :
    after (step { running .aesEnc base with pending := 0x00000006 }) statusWord =
      some 0x000000F2 := by decide +kernel
/-- Little-endian byte lanes of IBUF (10_state R40). -/
theorem test_bus_byte_lanes :
    after (step { base with host := [.cycle (writePins 0x1FC 0x04030201)] })
      (fun t => (byteOf t 0x1FC, byteOf t 0x1FF)) = some (1, 4) := by decide +kernel
theorem test_placed_command :
    after (step (State.reset.withFetchWord 32 0x40)) (fun t => (t.busy, t.done, t.pending)) =
      some (false, true, 0x40) := by decide +kernel
theorem test_reset_inv : base.mem.wf = true ∧ State.reset.mem.wf = true := by decide

/-! ### The hypotheses of the statements are met, each clause at its boundary values

A witness is named after its statement. Where a statement has clauses, there is one state for each. -/

/-- A command in its last cycle, with an access in that cycle. -/
def lastCycle : State := { running .mask sA with host := [.cycle (readPins 0x010)] }

theorem witness_StepRunsTheDecodedCommand :
    lastCycle.busy = true ∧ lastCycle.remaining ≤ 1 ∧ (currentPins lastCycle).rst = false ∧
      (∃ s', busAccess (currentPins lastCycle) (advanceHost lastCycle) = .ok s') ∧
      decode lastCycle.pending = .command .mask :=
  ⟨rfl, by decide, rfl, ⟨_, rfl⟩, by decide⟩

/-- An illegal word in its last cycle. -/
def illegalRunning : State := { running .mask sA with pending := 0x00000100 }

/-- With an access in that cycle, and with none. -/
theorem witness_IllegalWordEndsWithCmdError :
    (let s := { illegalRunning with host := [.cycle (writePins 0x004 0x00000102)] };
      s.busy = true ∧ s.remaining ≤ 1 ∧ (currentPins s).rst = false ∧
        (∃ s', busAccess (currentPins s) (advanceHost s) = .ok s') ∧
        decode s.pending = .illegal .reservedBits) ∧
    illegalRunning.busy = true ∧ illegalRunning.remaining ≤ 1 ∧ illegalRunning.host = [] ∧
      decode illegalRunning.pending = .illegal .reservedBits :=
  ⟨⟨rfl, by decide, rfl, ⟨_, rfl⟩, by decide⟩, by decide⟩

theorem witness_CmdWriteStartsACommand :
    base.busy = false ∧ (running .mask base).busy = true ∧
      1 ≤ (busWrite 0x000 3 { base with latencies := [0] }).remaining := by decide

/-- A write, a read and an idle cycle with no command running; a write and a read in a cycle of a
running command that is not its last. -/
theorem witness_StepPerformsTheAccess :
    (base.busy = true → 2 ≤ base.remaining) ∧
    (let s := { running .mask base with remaining := 2 };
      s.busy = true → 2 ≤ s.remaining) ∧
    (let p := writePins 0x1FC 5;
      p.rst = false ∧ p.sel = true ∧ p.we = true ∧ p.size = 2 ∧ p.addr.toNat % 4 = 0) ∧
    (let p := readPins 0x3FC;
      p.rst = false ∧ p.sel = true ∧ p.we = false ∧ p.size = 2 ∧ p.addr.toNat % 4 = 0) ∧
    idlePins.rst = false ∧ idlePins.sel = false := by decide

/-- A word of a command and an illegal one, each with LAT 1. -/
theorem witness_CmdWriteInACycleRunsTheCommand :
    ∀ v ∈ [(0x00000031 : Word), 0x00000031 + 0x100],
      let s := { sA with host := [.cycle (writePins 0x000 v)], latencies := [0] }
      s.busy = false ∧
        ∃ u t, step s = .next u ∧ CompletesTo { u with remaining := 0, response := none } t := by
  intro v hv
  simp only [List.mem_cons, List.not_mem_nil, or_false] at hv
  rcases hv with rfl | rfl
  · exact ⟨rfl, _, _, rfl, .inl ⟨.sessionClear, by decide, rfl⟩⟩
  · exact ⟨rfl, _, _, rfl, .inr ⟨.reservedBits, by decide, rfl⟩⟩

/-- With three cycles to go: a command, and an illegal word. -/
theorem witness_CommandCompletesAfterItsLatency :
    (let s := { running .sessionClear sA with remaining := 3 };
      s.busy = true ∧ s.remaining = 2 + 1 ∧ s.host = [] ∧
        ∃ t, CompletesTo { s with remaining := 0, response := none } t) ∧
    (let s := { illegalRunning with remaining := 3 };
      s.busy = true ∧ s.remaining = 2 + 1 ∧ s.host = [] ∧
        ∃ t, CompletesTo { s with remaining := 0, response := none } t) :=
  ⟨⟨rfl, rfl, rfl, _, .inl ⟨.sessionClear, by decide, rfl⟩⟩,
    ⟨rfl, rfl, rfl, _, .inr ⟨.reservedBits, by decide, rfl⟩⟩⟩

/-- A poll in a last cycle: of a command, and of an illegal word. -/
theorem witness_WaitEndsAfterCompletion :
    (let s := { running .sessionClear sA with host := .poll :: rd 0x060 };
      s.busy = true ∧ s.remaining = 0 + 1 ∧ s.host = .poll :: rd 0x060 ∧
        ∃ t, CompletesTo { s with
          remaining := 0
          response := some { rdata := some (statusWord s), err := false } } t) ∧
    (let s := { illegalRunning with host := [.poll] };
      s.busy = true ∧ s.remaining = 0 + 1 ∧ s.host = .poll :: [] ∧
        ∃ t, CompletesTo { s with
          remaining := 0
          response := some { rdata := some (statusWord s), err := false } } t) :=
  ⟨⟨rfl, rfl, rfl, _, .inl ⟨.sessionClear, by decide, rfl⟩⟩,
    ⟨rfl, rfl, rfl, _, .inr ⟨.reservedBits, by decide, rfl⟩⟩⟩

/-- The first and last locked offset of each range, and the offsets next to them that are not. -/
def lockedOffset (off : Nat) : Bool :=
  decide (off % 4 = 0 ∧
    (off = 0x000 ∨ off = 0x010 ∨ off = 0x014 ∨ off = 0x018 ∨ (0x030 ≤ off ∧ off ≤ 0x04F) ∨
     off = 0x090 ∨ off = 0x094 ∨ off = 0x098 ∨ (0x0A0 ≤ off ∧ off ≤ 0x0D3) ∨
     (0x0E0 ≤ off ∧ off ≤ 0x0EF) ∨ (0x100 ≤ off ∧ off ≤ 0x1FF)))

theorem witness_BusyLocksOperandsAndSetsWerr :
    (running .mask sA).busy = true ∧
      [0x000, 0x010, 0x014, 0x018, 0x030, 0x04C, 0x090, 0x094, 0x098, 0x0A0, 0x0D0, 0x0E0, 0x0EC, 0x100,
        0x1FC].all lockedOffset = true ∧
      [0x004, 0x008, 0x00C, 0x01C, 0x02C, 0x050, 0x09C, 0x0D4, 0x0F0, 0x200].all lockedOffset =
        false := by decide

theorem witness_ReadOnlyAndReservedIgnoreWrites :
    (∀ off ∈ [0x00C, 0x01C, 0x02C, 0x06C, 0x09C, 0x0DC, 0x300, 0x3FC],
      busWrite off 0xFFFFFFFF sA = sA) ∧
    (∀ off ∈ [0x020, 0x028, 0x050, 0x08C, 0x0D4, 0x0D8, 0x0F0, 0x0FC, 0x200, 0x2FC],
      busWrite off 0xFFFFFFFF sA = sA) := by decide +kernel

theorem witness_WriteThenReadWord :
    base.busy = false ∧ (0x1FC : Nat) % 4 = 0 ∧ (0x100 ≤ 0x1FC ∧ 0x1FC ≤ 0x1FF) ∧
      (busRead 0x1FC (busWrite 0x1FC 0x89ABCDEF base)).1 = 0x89ABCDEF ∧
      (busRead 0x1F8 (busWrite 0x1F8 1 (busWrite 0x1FC 2 base))).1 = 1 ∧
      (busRead 0x04C (busWrite 0x04C 5 base)).1 = 5 ∧
      (busRead 0x0D0 (busWrite 0x0D0 0xABCD1234 base)).1 = 0x1234 := by decide +kernel

theorem witness_BusyReadsAreFreeOnTheOutputSideOnly :
    (running .mask sA).busy = true ∧
      (busRead 0x2FC (running .mask sA)).2.draws = 1 ∧ (busRead 0x0BC (running .mask sA)).2.draws = 1 ∧
      (busRead 0x1FC (running .mask sA)).2.draws = 0 ∧ (busRead 0x0EC (running .mask sA)).2.draws = 0 := by
  decide +kernel

/-- With no command running, at the last word of each wide register and buffer. -/
theorem witness_IdleReadsGiveTheNamedRegister :
    sB.busy = false ∧ (busRead (0x070 + 4 * 3) sB).1 = 0x0F0E0D0C ∧
      (busRead (0x080 + 4 * 3) sB).1 = 0x1F1E1D1C ∧ (busRead 0x068 sB).1 = 0x26012345 ∧
      (busRead (0x100 + 4 * 127) { sB with mem := [(0x2FC, 1), (0x2FD, 2), (0x2FE, 3), (0x2FF, 4)] }).1
        = 0x04030201 := by decide +kernel

theorem witness_IdleWritesStoreIntoTheNamedRegister :
    sB.busy = false ∧ (busWrite (0x0A0 + 4 * 3) 5 sB).stgNwkskey.extractLsb' 96 32 = 5 ∧
      (busWrite (0x0C0 + 4 * 1) 5 sB).appeui.extractLsb' 32 32 = 5 ∧
      byteOf (busWrite (0x100 + 4 * 63) 0x04030201 sB) 0x1FF = 4 := by decide +kernel

/-- A command and an illegal word in their last cycle. -/
theorem witness_CompletionWinsOverClearingDone :
    (let s := { running .mask sA with host := [.cycle (writePins 0x004 0x00000102)] };
      s.busy = true ∧ s.remaining ≤ 1 ∧
        s.host = .cycle (writePins 0x004 0x00000102) :: []) ∧
    (let s := { illegalRunning with host := [.cycle (writePins 0x004 0x00000102)] };
      s.busy = true ∧ s.remaining ≤ 1 ∧
        s.host = .cycle (writePins 0x004 0x00000102) :: []) := by decide

theorem witness_IrqFollowsDoneAndEnable :
    base.busy = false ∧ irq (busWrite 0x000 1 { base with done := true, doneIe := true }) = false := by
  decide +kernel

theorem witness_ResetCycleGivesTheResetState :
    (currentPins { running .mask sA with host := [.cycle { writePins 0x000 3 with rst := true }] }).rst
      = true := by decide

theorem witness_OnlyUnsupportedAccessesStopTheModel :
    let p := currentPins { sA with host := [.cycle (readPins 0x002)] }
    p.rst = false ∧ p.sel = true ∧ (p.size ≠ 2 ∨ p.addr.toNat % 4 ≠ 0) := by decide

theorem witness_WordAccessHostNeverStops :
    HostOk { sA with host := wrbuf 0 frame1 ++ run .decode ++ rd 0x3FC } := by
  unfold HostOk; decide +kernel

theorem witness_AesDecWritesThePlaintext :
    ∃ t u, exec .aesDec sB = .next t ∧ exec .aesEnc { t with blkIn := t.blkOut } = .next u :=
  ⟨_, _, rfl, rfl⟩

theorem witness_SboxIsAffineOfTheInverse : gfMul 0x53 0xCA = 1 ∧ (0x53 : Byte) ≠ 0 := by decide

/-- Indices 0 and 255 on one side, 256 and 511 on the other. -/
theorem witness_MaskWritesOneKeystreamBlock :
    let n := fun w : Word => (w.extractLsb' 0 9).toNat
    n 0 ≤ 255 ∧ n 0xFFFF10FF ≤ 255 ∧ 255 < n 0x100 ∧ 255 < n 0x1FF := by decide

theorem witness_CmacWritesTagAndMicWord :
    let n := fun w : Word => (w.extractLsb' 0 9).toNat
    n 0 ≤ 256 ∧ n 0x100 ≤ 256 ∧ 256 < n 0x101 := by decide

theorem witness_DataMicWritesMicWord :
    let n := fun w : Word => (w.extractLsb' 0 9).toNat
    n 0 ≤ 255 ∧ n 0xFF ≤ 255 ∧ 255 < n 0x100 := by decide

/-- Last blocks of 1, 15 and 16 bytes. -/
theorem witness_CmacIsTheChainedCipher :
    (1 ≤ [(0 : Byte)].length ∧ [(0 : Byte)].length ≤ 16) ∧ (zeros 15).length = 15 ∧
      (zeros 16).length = 16 ∧
      cmac 0 ([(0 : Block)].flatMap blockBytes ++ [0]) =
        bytesBlock [0xD4, 0xC3, 0x75, 0x56, 0x46, 0x28, 0x15, 0x36, 0xCC, 0x59, 0x05, 0x55, 0x4E, 0x44,
          0x51, 0x61] := by decide +kernel

theorem witness_MaskingIsSelfInverse :
    16 < (zeros 242).length ∧ (zeros 242).length ≤ 242 ∧
      byteAt (maskBytes 0 0 0x01020304 0 [0xAA, 0xBB]) 1 = 0x12 := by decide +kernel

/-- ARG1 with a message type, an option length and a port. -/
def composeWith (pl fl t port : Nat) (s : State) : State :=
  { s with
    arg0 := BitVec.ofNat 32 pl
    arg1 := BitVec.ofNat 32 (fl + t * 2 ^ 8 + port * 2 ^ 16) }

/-- No session; types 1 and 6; a payload one over MAXPL; 16 options; a frame of 256 bytes. -/
theorem witness_ComposeChecksInOrder :
    base.sessValid = false ∧
    (sA.sessValid = true ∧ arg1Mtype (composeWith 1 0 1 1 sA) = 1 ∧
      arg1Mtype (composeWith 1 0 6 1 sA) = 6) ∧
    (let s := composeWith 52 0 2 1 sA;
      maxplOf s.cfg s.sessFmt = some 51 ∧ arg1Mtype s = 2 ∧ arg0N s = 52) ∧
    (let s := composeWith 51 16 5 1 sA;
      maxplOf s.cfg s.sessFmt = some 51 ∧ arg1Mtype s = 5 ∧ arg0N s = 51 ∧ arg1FoptsLen s = 16) ∧
    (let s := composeWith 242 1 2 1 sC;
      maxplOf s.cfg s.sessFmt = some 242 ∧ arg0N s = 242 ∧ arg1FoptsLen s = 1 ∧
        13 + arg1FoptsLen s + arg0N s = 256) := by decide

/-- A payload at MAXPL in a frame of 255 bytes, and no payload with 15 options. -/
theorem witness_ComposeWritesTheFrame :
    (let s := composeWith 242 0 2 1 sC;
      s.sessValid = true ∧ arg1Mtype s = 2 ∧ maxplOf s.cfg s.sessFmt = some 242 ∧
        arg0N s ≤ 242 ∧ arg1FoptsLen s ≤ 15 ∧ 13 + arg1FoptsLen s + arg0N s ≤ 255) ∧
    (let s := composeWith 0 15 5 0 sA;
      s.sessValid = true ∧ arg1Mtype s = 5 ∧ maxplOf s.cfg s.sessFmt = some 51 ∧ arg0N s = 0 ∧
        arg1FoptsLen s ≤ 15 ∧ 12 + arg1FoptsLen s ≤ 255) := by decide

/-- Lengths 11 and 256; type 1; options that overrun the frame (V-FRM-13, 13b, 14, 15). -/
theorem witness_ParseChecksInOrder :
    base.sessValid = false ∧ arg0N (withIbuf (frame1.take 11) sA) = 11 ∧
    arg0N { sA with arg0 := 256 } = 256 ∧
    (let s := withIbuf (0x20 :: frame1.drop 1) sA;
      s.sessValid = true ∧ 12 ≤ arg0N s ∧ arg0N s ≤ 255 ∧ mhdrMtype (byteOf s 0x100) = 1) ∧
    (let s := withIbuf [0x40, 4, 3, 2, 1, 3, 0, 0, 1, 2, 3, 4, 5, 6] sA;
      arg0N s = 14 ∧ mhdrMtype (byteOf s 0x100) = 2 ∧ fctrlFoptsLen (byteOf s 0x105) = 3) := by
  decide

/-- A frame that parses, with a good MIC, with a bad one, and the shortest one. -/
theorem witness_DecodeVerifiesAndUnmasks :
    (∀ b ∈ [frame1, frame3, frame7], 12 ≤ b.length ∧ b.length ≤ 255 ∧
      mhdrMtype (byteAt b 0) = 2 ∧ 12 + fctrlFoptsLen (byteAt b 5) ≤ b.length) ∧
    sA.sessValid = true ∧
    dataMic sA.sessNwkskey 0 0x01020304 0 (slice frame1 0 11) = slice frame1 11 15 ∧
    dataMic sA.sessNwkskey 0 0x01020304 0 (slice frame3 0 11) ≠ slice frame3 11 15 ∧
    dataMic sB.sessNwkskey 0 0x26012345 5 (slice frame7 0 8) = slice frame7 8 12 := by
  decide +kernel

theorem witness_PartialDecodesReportTheHeader :
    let s := withIbuf frame7 base
    12 ≤ arg0N s ∧ arg0N s ≤ 255 ∧ mhdrMtype (byteOf s 0x100) = 2 ∧
      12 + fctrlFoptsLen (byteOf s 0x105) ≤ arg0N s := by decide

/-- V-FRM-1 and V-FRM-2, the frame copied from OBUF to IBUF. -/
theorem witness_DecodeOfComposeRoundTrips :
    let v := withIbuf frame1 sA
    after (exec .compose compose1)
      (fun u => (u.result, u.res0.extractLsb' 0 9, bytesFrom u 0x200 u.res0.toNat)) =
        some (0, v.arg0.extractLsb' 0 9, bytesFrom v 0x100 15) ∧
    v.sessValid = true ∧ v.sessNwkskey = compose1.sessNwkskey ∧
      v.sessAppskey = compose1.sessAppskey ∧ v.cfg.micInput = compose1.cfg.micInput := by
  decide +kernel

/-- The example of 43_join R151. -/
theorem witness_JoinReqWritesTheRequest :
    sJ.appkey = bytesBlock [0x00, 0x01, 0x02, 0x03, 0x04, 0x05, 0x06, 0x07, 0x08, 0x09, 0x0A, 0x0B,
      0x0C, 0x0D, 0x0E, 0x0F] ∧ sJ.appeui = 0x70B3D57ED0000001 ∧ sJ.deveui = 0x0004A30B001C0530 ∧
      sJ.devnonce = 0x1234 ∧ sJ.arg1.extractLsb' 8 3 = 0 := by decide

/-- Lengths 16, 17 and 33; a good MIC in a frame of each length, and a bad one (V-JA-1, 2, 4). -/
theorem witness_JoinAcceptVerifiesAndDerives :
    arg0N (withIbuf (accept1.take 16) sJ) = 16 ∧ arg0N (withIbuf accept1 sJ) = 17 ∧
      arg0N (withIbuf accept2 sJ) = 33 ∧
      after (exec .joinAccept (withIbuf accept1 sJ)) (·.result) = some 0 ∧
      after (exec .joinAccept (withIbuf accept2 sJ)) (·.result) = some 0 ∧
      after (exec .joinAccept (withIbuf (accept1.take 16 ++ [0xFB]) sJ)) (·.result) = some 2 := by
  decide +kernel

/-- Two runs with the same inputs (95 W-6). -/
theorem witness_JoinKeysDifferAndAreDetermined :
    ∃ t t', exec .joinAccept (withIbuf accept1 sJ) = .next t ∧
      exec .joinAccept (withIbuf accept1 { sJ with res0 := 7, arg1 := 9 }) = .next t' ∧
      t.result = 0 ∧ t'.result = 0 ∧
      (withIbuf accept1 sJ).appkey = (withIbuf accept1 { sJ with res0 := 7, arg1 := 9 }).appkey ∧
      (withIbuf accept1 sJ).devnonce = (withIbuf accept1 { sJ with res0 := 7, arg1 := 9 }).devnonce ∧
      t.jaAppnonce = t'.jaAppnonce ∧ t.stgNetid = t'.stgNetid := by
  refine ⟨_, _, rfl, rfl, ?_⟩
  decide +kernel

theorem witness_SessionLoadCopiesTheStaging :
    (let s := { base with stgFmt := 1 };
      maxplOf s.cfg s.stgFmt = some 51 ∧ s.stgFmt = 1 ∧ s.werr = false) ∧
    maxplOf cfgT 7 = none ∧ maxplOf cfgT 0 = none := by decide

theorem witness_SessionClearReturnsToPreJoin :
    (sB.werr = false ∧ sB.sessValid = true) ∧ SessionOk base ∧ base.sessValid = false :=
  ⟨by decide, ⟨fun h => absurd h (by decide), fun _ => by decide⟩, rfl⟩

theorem witness_MaxPayloadReportsTheCeiling :
    sC.sessValid = true ∧ maxplOf sC.cfg sC.sessFmt = some 242 ∧ base.sessValid = false := by decide

theorem witness_StepKeepsTheInvariant : Inv sA ∧ ∃ t, step sA = .next t := by
  refine ⟨⟨by decide, Or.inl rfl, ⟨?_, ?_⟩, ⟨?_, ?_⟩, ?_, ?_⟩, _, rfl⟩
  · exact fun h => absurd h (by decide)
  · exact fun _ => rfl
  · exact fun _ => ⟨51, by decide⟩
  · exact fun h => absurd h (by decide)
  · decide
  · exact fun _ => rfl

theorem witness_FailedCommandsChangeOnlyStatus :
    ∃ t, exec .compose base = .next t ∧ t.result ≠ 0 := ⟨_, rfl, by decide⟩

/-- A cycle that changes the session, and one that does not. -/
theorem witness_OnlySessionCommandsChangeTheSession :
    after (step (running .sessionClear sA)) (·.sessFmt) = some 0 ∧
      after (step sA) (·.sessFmt) = some 1 := by decide +kernel

/-- A command that writes OBUF, and one that fails. -/
theorem witness_CommandsWriteOnlyTheirObufPrefix :
    after (exec .compose compose1) (fun t => (t.result, obufWritten .compose t)) = some (0, 15) ∧
      after (exec .compose base) (fun t => (t.result, decide (t.mem = base.mem))) = some (4, true) := by
  decide +kernel

/-- IBUF[15] written differently, the frame in IBUF[0..15) as before. -/
theorem witness_OnlyNamedIbufBytesMatter :
    let s := withIbuf frame1 sA
    (∀ a, byteOf { s with mem := s.mem.write 0x10F 0x77 } a ≠ byteOf s a →
      0x100 + ibufRead .decode s ≤ a ∧ a ≤ 0x1FF) ∧ ∃ t, exec .decode s = .next t := by
  refine ⟨fun a h => ?_, _, rfl⟩
  have h1 : a = 0x10F := by
    by_contra hne
    exact h (by simp only [byteOf, find_write, if_neg hne])
  subst h1
  decide

theorem witness_OperandsAreStableWhileBusy :
    let s := { running .joinAccept (withIbuf accept1 sJ) with
      host := [.cycle (writePins 0x100 0xFFFFFFFF)] }
    s.busy = true ∧ (currentPins s).rst = false ∧ ∃ t, step s = .next t :=
  ⟨rfl, rfl, _, rfl⟩

end Sys2Proof.Tests
end

/-! ## The state and the register window (10_state R22 to R48)

The rules of one read and one write at an offset of the window, what an access and a command leave
of the session, and the obligations that follow from them. -/

namespace Sys2Proof.Machine

/-! ### Where offsets lead -/

/-- The registers that 10_state R22 gives no host write: they ignore it whatever BUSY is. -/
def Reg.ignoresWrites : Reg → Bool
  | .res0 | .res1 | .res2 | .blkOut
  | .sessCfg | .sessNetid | .sessDevaddr | .sessNwkskey | .sessAppskey
  | .jaAppnonce | .jaInfo | .jaCflist | .obuf | .reserved => true
  | _ => false

/-- The stretches of the window whose registers 10_state R48 names. -/
theorem locate_locked : ∀ off : Nat, off < 1024 →
    (off < 0x004 ∨ (0x010 ≤ off ∧ off < 0x01C) ∨ (0x030 ≤ off ∧ off < 0x050) ∨
     (0x090 ≤ off ∧ off < 0x09C) ∨ (0x0A0 ≤ off ∧ off < 0x0D4) ∨ (0x0E0 ≤ off ∧ off < 0x0F0) ∨
     (0x100 ≤ off ∧ off < 0x200)) →
    lockedWhileBusy (locate off).1 = true := by
  decide +kernel

/-- The reserved offsets of 10_state R23. -/
theorem locate_reserved : ∀ off : Nat, off < 1024 → off % 4 = 0 →
    (off = 0x00C ∨ off = 0x01C ∨ off = 0x02C ∨ off = 0x06C ∨ off = 0x09C ∨ off = 0x0DC ∨
     (0x300 ≤ off ∧ off ≤ 0x3FF)) →
    (locate off).1 = .reserved := by
  decide +kernel

/-- The offsets of the read-only registers of 10_state R22. -/
theorem locate_readOnly : ∀ off : Nat, off < 1024 → off % 4 = 0 →
    (off = 0x020 ∨ off = 0x024 ∨ off = 0x028 ∨ (0x050 ≤ off ∧ off ≤ 0x08F ∧ off ≠ 0x06C) ∨
     off = 0x0D4 ∨ off = 0x0D8 ∨ (0x0F0 ≤ off ∧ off ≤ 0x0FF) ∨ (0x200 ≤ off ∧ off ≤ 0x2FF)) →
    (locate off).1.ignoresWrites = true := by
  decide +kernel

/-! ### One read and one write -/

/-- A register outside the free reads of 10_state R49 answers its stored value whatever BUSY is. -/
theorem busRead_stored {off : Nat} (s : State) (h : readsFreeWhileBusy (locate off).1 = false) :
    busRead off s = (readReg s (locate off).1 (locate off).2, s) := by
  rcases busRead_cases off s with ⟨hread, -⟩ | ⟨-, -, hfree⟩
  · exact hread
  · rw [h] at hfree; cases hfree

/-- A write to a locked register while BUSY = 1 (10_state R48). -/
theorem busWrite_locked {off : Nat} {s : State} (v : Word) (hb : s.busy = true)
    (h : lockedWhileBusy (locate off).1 = true) : busWrite off v s = setWerr s := by
  simp [busWrite, hb, h]

/-- A write to a register that is never locked reaches it whatever BUSY is. -/
theorem busWrite_unlocked {off : Nat} (v : Word) (s : State)
    (h : lockedWhileBusy (locate off).1 = false) :
    busWrite off v s = writeReg v s (locate off).1 (locate off).2 := by
  simp [busWrite, h]

/-- All that an accepted write can do: set WERR, or write one register. -/
theorem busWrite_cases (off : Nat) (v : Word) (s : State) :
    busWrite off v s = setWerr s ∨ busWrite off v s = writeReg v s (locate off).1 (locate off).2 := by
  by_cases h : (s.busy && lockedWhileBusy (locate off).1) = true
  · exact .inl (by simp only [busWrite, h, if_true])
  · exact .inr (by simp only [busWrite, h]; rfl)

/-- Words that a register cannot tell apart write the same at its offset, locked or not. -/
theorem busWrite_congr {off : Nat} {v w : Word} {s : State}
    (h : writeReg v s (locate off).1 (locate off).2 = writeReg w s (locate off).1 (locate off).2) :
    busWrite off v s = busWrite off w s := by
  unfold busWrite
  simp only [h]

theorem Reg.ignoresWrites_unlocked {r : Reg} (h : r.ignoresWrites = true) :
    lockedWhileBusy r = false := by
  cases r <;> first | rfl | cases h

theorem writeReg_of_ignoresWrites {r : Reg} (v : Word) (s : State) (i : Nat)
    (h : r.ignoresWrites = true) : writeReg v s r i = s := by
  cases r <;> first | rfl | cases h

/-- A write that the register ignores changes nothing, WERR included. -/
theorem busWrite_of_ignoresWrites {off : Nat} (v : Word) (s : State)
    (h : (locate off).1.ignoresWrites = true) : busWrite off v s = s := by
  rw [busWrite_unlocked v s (Reg.ignoresWrites_unlocked h), writeReg_of_ignoresWrites v s _ h]

theorem busRead_of_reserved {off : Nat} (s : State) (h : (locate off).1 = .reserved) :
    busRead off s = (0, s) := by
  rw [busRead_stored s (by rw [h]; rfl), h]
  rfl

theorem busRead_cmd (s : State) : busRead 0x000 s = (0, s) := busRead_stored s rfl

theorem busWrite_cmd_idle {s : State} (v : Word) (h : s.busy = false) :
    busWrite 0x000 v s = acceptCommand v s := busWrite_idle 0x000 v s h

theorem busWrite_status (v : Word) (s : State) : busWrite 0x004 v s = writeStatus v s :=
  busWrite_unlocked v s rfl

theorem busWrite_irqEn (v : Word) (s : State) : busWrite 0x008 v s = writeIrqEn v s :=
  busWrite_unlocked v s rfl

/-! ### Read-only bits -/

/-- The low bits of a word do not see a mask that has all of them. -/
theorem extractLsb'_and_mask (v : Word) {m : Word} {n : Nat}
    (hm : ∀ k, k < n → m.getLsbD k = true) : (v &&& m).extractLsb' 0 n = v.extractLsb' 0 n := by
  apply BitVec.eq_of_getLsbD_eq
  intro k hk
  simp [hk, hm k hk]

theorem writeStatus_mask (v : Word) (s : State) :
    writeStatus v s = writeStatus (v &&& 0x00000102) s := by
  simp [writeStatus]

theorem writeIrqEn_mask (v : Word) (s : State) :
    writeIrqEn v s = writeIrqEn (v &&& 0x00000001) s := by
  simp [writeIrqEn]

theorem writeReg_stgFmt_mask (v : Word) (s : State) (i : Nat) :
    writeReg v s .stgFmt i = writeReg (v &&& 0x000000FF) s .stgFmt i := by
  simp only [writeReg]
  rw [extractLsb'_and_mask v (by decide)]

theorem writeReg_stgNetid_mask (v : Word) (s : State) (i : Nat) :
    writeReg v s .stgNetid i = writeReg (v &&& 0x00FFFFFF) s .stgNetid i := by
  simp only [writeReg]
  rw [extractLsb'_and_mask v (by decide)]

theorem writeReg_devnonce_mask (v : Word) (s : State) (i : Nat) :
    writeReg v s .devnonce i = writeReg (v &&& 0x0000FFFF) s .devnonce i := by
  simp only [writeReg]
  rw [extractLsb'_and_mask v (by decide)]

/-! ### The start of a command and the interrupt output -/

/-- LAT is at least 1 (00_scope R11). -/
theorem nextLatency_pos (s : State) : 1 ≤ nextLatency s := by
  unfold nextLatency
  split <;> exact Nat.le_add_left 1 _

theorem SameInputs.doneIe {s u : State} (h : SameInputs s u) : u.doneIe = s.doneIe := by
  rw [h]

theorem irq_complete (code : ResultCode) (s : State) : irq (complete code s) = s.doneIe := by
  simp [irq]

theorem irq_acceptCommand (v : Word) (s : State) : irq (acceptCommand v s) = false := by
  simp [irq]

theorem irq_writeIrqEn (v : Word) (s : State) :
    irq (writeIrqEn v s) = (s.done && v.getLsbD 0) := rfl

theorem irq_writeStatus (v : Word) (s : State) :
    irq (writeStatus v s) = (irq s && !v.getLsbD 1) := by
  simp only [irq, writeStatus_done, writeStatus_doneIe]
  exact Bool.and_right_comm _ _ _

/-! ### The session registers -/

/-- The session context (10_state R32). -/
structure Session where
  fmt : BitVec 8
  valid : Bool
  netid : BitVec 24
  devaddr : Word
  nwkskey : Block
  appskey : Block

/-- The session registers of a state. -/
def State.session (s : State) : Session :=
  ⟨s.sessFmt, s.sessValid, s.sessNetid, s.sessDevaddr, s.sessNwkskey, s.sessAppskey⟩

theorem session_eq_iff {s t : State} : t.session = s.session ↔
    t.sessFmt = s.sessFmt ∧ t.sessValid = s.sessValid ∧ t.sessNetid = s.sessNetid ∧
      t.sessDevaddr = s.sessDevaddr ∧ t.sessNwkskey = s.sessNwkskey ∧
      t.sessAppskey = s.sessAppskey := by
  simp only [State.session, Session.mk.injEq]

theorem writeReg_session (v : Word) (s : State) (r : Reg) (i : Nat) :
    (writeReg v s r i).session = s.session := by
  cases r <;> rfl

theorem busWrite_session (off : Nat) (v : Word) (s : State) :
    (busWrite off v s).session = s.session := by
  rcases busWrite_cases off v s with h | h <;> rw [h]
  · rfl
  · exact writeReg_session v s _ _

theorem busRead_session (off : Nat) (s : State) : (busRead off s).2.session = s.session := by
  rcases busRead_cases off s with ⟨h, -⟩ | ⟨h, -⟩ <;> rw [h]
  rfl

/-- The session is read-only to the host (10_state R32). -/
theorem busAccess_session {p : BusCycle} {s s' : State} (h : busAccess p s = .ok s') :
    s'.session = s.session := by
  rcases busAccess_ok h with ⟨-, rfl⟩ | ⟨-, -, -, rfl⟩ | ⟨-, -, -, rfl⟩
  · rfl
  · exact busWrite_session p.addr.toNat p.wdata s
  · exact busRead_session p.addr.toNat s

/-- Every command but SESSION_LOAD and SESSION_CLEAR keeps the session. -/
theorem exec_session {i : Instr} {s t : State} (hload : i ≠ .sessionLoad)
    (hclear : i ≠ .sessionClear) (h : exec i s = .next t) : t.session = s.session := by
  suffices hkeep : ∃ u, exec i s = .next u ∧ u.session = s.session by
    obtain ⟨u, hu, hsession⟩ := hkeep
    cases hu.symm.trans h
    exact hsession
  cases i with
  | aesEnc | aesDec | joinReq | getDirection | ackRequest => exact ⟨_, rfl, rfl⟩
  | mask | cmac | dataMic | maxPayload | getAddress | getHeader =>
    exact ⟨_, rfl, by split <;> rfl⟩
  | joinAccept =>
    refine ⟨_, rfl, ?_⟩
    dsimp only
    split
    · rfl
    · split <;> rfl
  | compose =>
    refine ⟨_, rfl, ?_⟩
    repeat' split
    all_goals rfl
  | decode =>
    refine ⟨_, rfl, ?_⟩
    split
    · rfl
    · split
      · rfl
      · dsimp only
        split <;> rfl
  | sessionLoad => exact absurd rfl hload
  | sessionClear => exact absurd rfl hclear

/-! ### The obligations -/

/-- Settles O7: a write of CMD is `acceptCommand` while BUSY = 0 and `setWerr` while BUSY = 1. -/
theorem cmdWriteStartsACommand : Obligations.CmdWriteStartsACommand := by
  refine ⟨busRead_cmd, fun s v hidle => ?_, fun s v hbusy => busWrite_locked v hbusy rfl⟩
  exact ⟨acceptCommand v s, busWrite_cmd_idle v hidle, nextLatency_pos s, rfl⟩

/-- Settles O20: irq read off after each operation that can move DONE or DONE_IE. -/
theorem irqFollowsDoneAndEnable : Obligations.IrqFollowsDoneAndEnable := by
  refine ⟨fun s => ?_, fun i s => ?_, fun s v => ?_, fun s v => ?_, fun s v hidle => ?_⟩
  · simp only [irq, Bool.and_eq_true]
  · obtain ⟨code, u, hexec, hsame, -, -⟩ := exec_completes i s
    exact ⟨complete code u, hexec, (irq_complete code u).trans hsame.doneIe⟩
  · rw [busWrite_irqEn, irq_writeIrqEn]
  · rw [busWrite_status, irq_writeStatus]
  · rw [busWrite_cmd_idle v hidle, irq_acceptCommand]

/-- Settles O12: the named offsets lead to locked registers, and STATUS and IRQ_EN to registers
that are never locked. -/
theorem busyLocksOperandsAndSetsWerr : Obligations.BusyLocksOperandsAndSetsWerr := by
  refine fun s v => ⟨fun hbusy off halign hoff => ?_, busWrite_status v s, busWrite_irqEn v s⟩
  exact busWrite_locked v hbusy (locate_locked off (by omega) (by omega))

/-- Settles O13: reserved and read-only registers ignore writes, and the narrower registers store
only the bits of their masks. -/
theorem readOnlyAndReservedIgnoreWrites : Obligations.ReadOnlyAndReservedIgnoreWrites := by
  refine ⟨fun s off halign hoff => ?_, fun s off v halign hoff => ?_, fun s v => ?_, busRead_cmd⟩
  · have hres : (locate off).1 = .reserved := locate_reserved off (by omega) halign hoff
    exact ⟨busRead_of_reserved s hres, fun v => busWrite_of_ignoresWrites v s (by rw [hres]; rfl)⟩
  · exact busWrite_of_ignoresWrites v s (locate_readOnly off (by omega) halign hoff)
  · exact ⟨busWrite_congr (writeStatus_mask v s), busWrite_congr (writeIrqEn_mask v s),
      busWrite_congr (writeReg_stgFmt_mask v s 0), busWrite_congr (writeReg_stgNetid_mask v s 0),
      busWrite_congr (writeReg_devnonce_mask v s 0)⟩

/-- Settles O55: of what a cycle can do, only a reset and the last cycle of a session command do
not keep the session. -/
theorem onlySessionCommandsChangeTheSession : Obligations.OnlySessionCommandsChangeTheSession := by
  intro s t hstep
  rw [← session_eq_iff]
  rcases step_cases hstep with ⟨hrst, -⟩ | ⟨-, s', haccess, hcycle⟩
  · exact .inr (.inl hrst)
  have hkept : s'.session = s.session := busAccess_session (s := advanceHost s) haccess
  rcases hcycle with ⟨-, rfl⟩ | ⟨-, -, rfl⟩ | ⟨-, -, -, rfl⟩ | ⟨hbusy, hlast, i, hdecode, hexec⟩
  · exact .inl hkept
  · exact .inl hkept
  · exact .inl hkept
  · by_cases hload : i = .sessionLoad
    · exact .inr (.inr ⟨hbusy, hlast, .inl (hload ▸ hdecode)⟩)
    by_cases hclear : i = .sessionClear
    · exact .inr (.inr ⟨hbusy, hlast, .inr (hclear ▸ hdecode)⟩)
    · exact .inl ((exec_session hload hclear hexec).trans hkept)

end Sys2Proof.Machine

/-! ## AES-128 (40_aes R91 to R99)

Sums and products in GF(2^8), the S-box, the steps of the cipher that the inverse cipher undoes, the
key schedule, and the obligations about AES_ENC and AES_DEC. -/

namespace Sys2Proof.Machine

/-! ### Products in GF(2^8) (40_aes R91) -/

/-- The sum in GF(2^8) of `f 0` to `f (n - 1)`. -/
def byteSum : Nat → (Nat → Byte) → Byte
  | 0, _ => 0
  | n + 1, f => byteSum n f ^^^ f n

theorem byteSum_succ_left (n : Nat) (f : Nat → Byte) :
    byteSum (n + 1) f = f 0 ^^^ byteSum n (fun i => f (i + 1)) := by
  induction n with
  | zero => exact BitVec.xor_comm _ _
  | succ n ih => rw [byteSum, ih, byteSum, BitVec.xor_assoc]

theorem byteSum_congr {n : Nat} {f g : Nat → Byte} (h : ∀ i, i < n → f i = g i) :
    byteSum n f = byteSum n g := by
  induction n with
  | zero => rfl
  | succ n ih => rw [byteSum, byteSum, ih fun i hi => h i (by omega), h n (by omega)]

theorem byteSum_xor (n : Nat) (f g : Nat → Byte) :
    byteSum n (fun i => f i ^^^ g i) = byteSum n f ^^^ byteSum n g := by
  induction n with
  | zero => exact BitVec.xor_zero.symm
  | succ n ih => simp only [byteSum, ih]; ac_rfl

/-- An additive map takes a sum to the sum of its images. -/
theorem map_byteSum {φ : Byte → Byte} (hxor : ∀ x y, φ (x ^^^ y) = φ x ^^^ φ y) (n : Nat)
    (f : Nat → Byte) : φ (byteSum n f) = byteSum n (fun i => φ (f i)) := by
  induction n with
  | zero => simpa [byteSum] using hxor 0 0
  | succ n ih => rw [byteSum, hxor, ih, byteSum]

/-- What bit `i` of `b` adds to the product of `a` and `b`. -/
def gfTerm (a b : Byte) (i : Nat) : Byte := if b.getLsbD i then xtimePow i a else 0#8

theorem gfMul_eq_byteSum (a b : Byte) : gfMul a b = byteSum 8 (gfTerm a b) := by
  have hstep : ∀ (acc : Byte) (i : Nat),
      (if b.getLsbD i then acc ^^^ xtimePow i a else acc) = acc ^^^ gfTerm a b i := by
    intro acc i
    cases hbit : b.getLsbD i <;> simp [gfTerm, hbit]
  simp only [gfMul, hstep]
  rfl

/-- Doubling is a shift, and a reduction if bit 7 leaves the byte. -/
theorem xtime_eq_xor (b : Byte) : xtime b = (b <<< 1) ^^^ (if b.getLsbD 7 then 0x1B else 0#8) := by
  rw [xtime]
  cases b.getLsbD 7
  case false => exact BitVec.xor_zero.symm
  case true => rfl

theorem xtime_xor (a b : Byte) : xtime (a ^^^ b) = xtime a ^^^ xtime b := by
  have hreduce : (if (a ^^^ b).getLsbD 7 then (0x1B : Byte) else 0#8) =
      (if a.getLsbD 7 then 0x1B else 0#8) ^^^ (if b.getLsbD 7 then 0x1B else 0#8) := by
    rw [BitVec.getLsbD_xor]
    cases a.getLsbD 7 <;> cases b.getLsbD 7 <;> rfl
  simp only [xtime_eq_xor, hreduce, BitVec.shiftLeft_xor_distrib]
  ac_rfl

theorem xtimePow_xor (n : Nat) (a b : Byte) :
    xtimePow n (a ^^^ b) = xtimePow n a ^^^ xtimePow n b := by
  induction n with
  | zero => rfl
  | succ n ih => simp only [xtimePow, ih, xtime_xor]

theorem gfMul_xor_left (a b c : Byte) : gfMul (a ^^^ b) c = gfMul a c ^^^ gfMul b c := by
  have hterm : gfTerm (a ^^^ b) c = fun i => gfTerm a c i ^^^ gfTerm b c i := by
    funext i
    cases hbit : c.getLsbD i <;> simp [gfTerm, hbit, xtimePow_xor]
  simp only [gfMul_eq_byteSum, hterm, byteSum_xor]

theorem gfMul_xor_right (a b c : Byte) : gfMul a (b ^^^ c) = gfMul a b ^^^ gfMul a c := by
  have hterm : gfTerm a (b ^^^ c) = fun i => gfTerm a b i ^^^ gfTerm a c i := by
    funext i
    cases hb : b.getLsbD i <;> cases hc : c.getLsbD i <;> simp [gfTerm, hb, hc]
  simp only [gfMul_eq_byteSum, hterm, byteSum_xor]

@[simp] theorem gfMul_zero_left (a : Byte) : gfMul 0#8 a = 0#8 := by
  simpa using gfMul_xor_left 0 0 a

@[simp] theorem gfMul_zero_right (a : Byte) : gfMul a 0#8 = 0#8 := by
  simpa using gfMul_xor_right a 0 0

@[simp] theorem gfMul_one_left : ∀ a : Byte, gfMul 1#8 a = a := by decide +kernel

/-- `x^8` is `x^4 + x^3 + x + 1` modulo the reduction polynomial of 40_aes R91. -/
theorem gfMul_reduction : ∀ a : Byte, gfMul a 0x1B = xtimePow 8 a := by decide +kernel

/-- A shifted second factor gives each term one doubling later; the term of bit 7 is lost. -/
theorem gfMul_shiftLeft_one (a b : Byte) :
    gfMul a (b <<< 1) = byteSum 7 (fun i => xtime (gfTerm a b i)) := by
  have hzero : gfTerm a (b <<< 1) 0 = 0#8 := by simp [gfTerm]
  have hsucc : ∀ i, i < 7 → gfTerm a (b <<< 1) (i + 1) = xtime (gfTerm a b i) := by
    intro i hi
    have hbit : (b <<< 1).getLsbD (i + 1) = b.getLsbD i := by
      simp [show i + 1 < 8 by omega, show i < 8 by omega]
    rw [gfTerm, gfTerm, hbit, apply_ite xtime]
    rfl
  rw [gfMul_eq_byteSum, byteSum_succ_left, hzero, BitVec.zero_xor, byteSum_congr hsucc]

/-- Doubling the second factor doubles the product: bit 7 leaves the byte as the reduction. -/
theorem gfMul_xtime (a b : Byte) : gfMul a (xtime b) = xtime (gfMul a b) := by
  have htop : gfMul a (if b.getLsbD 7 then 0x1B else 0#8) = xtime (gfTerm a b 7) := by
    rw [gfTerm, apply_ite xtime, apply_ite (gfMul a), gfMul_reduction, gfMul_zero_right]
    rfl
  rw [xtime_eq_xor, gfMul_xor_right, gfMul_shiftLeft_one, htop, gfMul_eq_byteSum,
    map_byteSum xtime_xor]
  rfl

theorem gfMul_xtimePow (n : Nat) (a b : Byte) :
    gfMul a (xtimePow n b) = xtimePow n (gfMul a b) := by
  induction n with
  | zero => rfl
  | succ n ih => rw [xtimePow, gfMul_xtime, ih, xtimePow]

theorem gfMul_assoc (a b c : Byte) : gfMul (gfMul a b) c = gfMul a (gfMul b c) := by
  have hterm : gfTerm (gfMul a b) c = fun i => gfMul a (gfTerm b c i) := by
    funext i
    cases hbit : c.getLsbD i <;> simp [gfTerm, hbit, gfMul_xtimePow]
  rw [gfMul_eq_byteSum, hterm, gfMul_eq_byteSum b c, map_byteSum (gfMul_xor_right a)]

/-! ### The S-box (40_aes R92, R93) -/

theorem invSbox_sbox : ∀ x : Byte, invSbox (sbox x) = x := by decide +kernel

theorem sbox_invSbox : ∀ x : Byte, sbox (invSbox x) = x := by decide +kernel

/-- Bit `i` of `A(y)`, the affine map of 40_aes R92. -/
def affineBit (y : Byte) (i : Nat) : Bool :=
  y.getLsbD i ^^ y.getLsbD ((i + 4) % 8) ^^ y.getLsbD ((i + 5) % 8) ^^
    y.getLsbD ((i + 6) % 8) ^^ y.getLsbD ((i + 7) % 8) ^^ (0x63 : Byte).getLsbD i

/-- The byte that the affine map takes to `b`. -/
def affineInverse (b : Byte) : Byte :=
  b.rotateLeft 1 ^^^ b.rotateLeft 3 ^^^ b.rotateLeft 6 ^^^ 0x05

theorem affineBit_affineInverse :
    ∀ b : Byte, ∀ i, i < 8 → affineBit (affineInverse b) i = b.getLsbD i := by decide +kernel

/-- What the affine map takes to the S-box entry of `x` is the multiplicative inverse of `x`. -/
theorem gfMul_affineInverse_sbox :
    ∀ x : Byte, x ≠ 0 → gfMul x (affineInverse (sbox x)) = 1 := by decide +kernel

/-! ### Columns (40_aes R95) -/

/-- Mixing twice is mixing once with the product of the two circulant matrices. -/
theorem mixByte_mixByte (k0 k1 k2 k3 j0 j1 j2 j3 a b c d : Byte) :
    mixByte k0 k1 k2 k3 (mixByte j0 j1 j2 j3 a b c d) (mixByte j0 j1 j2 j3 b c d a)
        (mixByte j0 j1 j2 j3 c d a b) (mixByte j0 j1 j2 j3 d a b c) =
      mixByte (mixByte k0 k1 k2 k3 j0 j3 j2 j1) (mixByte k0 k1 k2 k3 j1 j0 j3 j2)
        (mixByte k0 k1 k2 k3 j2 j1 j0 j3) (mixByte k0 k1 k2 k3 j3 j2 j1 j0) a b c d := by
  simp only [mixByte, gfMul_xor_left, gfMul_xor_right, gfMul_assoc]
  ac_rfl

theorem mixByte_unit (a b c d : Byte) : mixByte 1 0 0 0 a b c d = a := by
  simp [mixByte]

/-- The matrix of MixColumns times the one of InvMixColumns is the unit matrix. -/
theorem mixByte_invMixByte (a b c d : Byte) :
    mixByte 0x02 0x03 0x01 0x01 (mixByte 0x0E 0x0B 0x0D 0x09 a b c d)
        (mixByte 0x0E 0x0B 0x0D 0x09 b c d a) (mixByte 0x0E 0x0B 0x0D 0x09 c d a b)
        (mixByte 0x0E 0x0B 0x0D 0x09 d a b c) = a := by
  have h0 : mixByte 0x02 0x03 0x01 0x01 0x0E 0x09 0x0D 0x0B = 1 := by decide
  have h1 : mixByte 0x02 0x03 0x01 0x01 0x0B 0x0E 0x09 0x0D = 0 := by decide
  have h2 : mixByte 0x02 0x03 0x01 0x01 0x0D 0x0B 0x0E 0x09 = 0 := by decide
  have h3 : mixByte 0x02 0x03 0x01 0x01 0x09 0x0D 0x0B 0x0E = 0 := by decide
  rw [mixByte_mixByte, h0, h1, h2, h3, mixByte_unit]

theorem mixColumns_invMixColumns (s : AesState) : mixColumns (invMixColumns s) = s := by
  have hcolumn : ∀ a : AesWord,
      mixWord 0x02 0x03 0x01 0x01 (mixWord 0x0E 0x0B 0x0D 0x09 a) = a := fun a => by
    simp only [mixWord, mixByte_invMixByte]
  simp only [mixColumns, invMixColumns, AesState.map, hcolumn]

theorem subBytes_invSubBytes (s : AesState) : subBytes (invSubBytes s) = s := by
  simp only [subBytes, invSubBytes, AesState.map, AesWord.map, sbox_invSbox]

/-! ### The two ciphers (40_aes R96, R97) -/

/-- The rounds of the cipher undo those of the inverse cipher, but for the InvShiftRows and
InvSubBytes with which these begin. -/
theorem encRounds_decRounds (w : List AesWord) (n : Nat) (s : AesState) :
    encRounds w n (decRounds w n s) = invSubBytes (invShiftRows s) := by
  induction n generalizing s with
  | zero => exact addRoundKey_addRoundKey _ _
  | succ n ih =>
    rw [encRounds, decRounds, ih, subBytes_invSubBytes, shiftRows_invShiftRows,
      mixColumns_invMixColumns, addRoundKey_addRoundKey]

theorem aesEncrypt_aesDecrypt (k b : Block) : aesEncrypt k (aesDecrypt k b) = b := by
  simp only [aesEncrypt, aesDecrypt, loadBlock_unloadBlock, encRounds_decRounds,
    subBytes_invSubBytes, shiftRows_invShiftRows, addRoundKey_addRoundKey, unloadBlock_loadBlock]

/-! ### The key schedule (40_aes R94) -/

/-- Word `i` of the schedule from the words `w[i-4]` and `w[i-1]`. -/
def scheduleWord (i : Nat) (w4 w1 : AesWord) : AesWord :=
  w4.xor (if i % 4 = 0 then (subWord (rotWord w1)).xor ⟨rcon (i / 4), 0, 0, 0⟩ else w1)

theorem expandFrom_length (n i : Nat) (w4 w3 w2 w1 : AesWord) :
    (expandFrom n i w4 w3 w2 w1).length = n := by
  induction n generalizing i w4 w3 w2 w1 with
  | zero => rfl
  | succ n ih => exact congrArg (· + 1) (ih ..)

/-- Each word of the expansion comes from the words four before it and one before it. -/
theorem expandFrom_recurrence {n j : Nat} (hj : j < n) (i : Nat) (w4 w3 w2 w1 d : AesWord) :
    let w := w4 :: w3 :: w2 :: w1 :: expandFrom n i w4 w3 w2 w1
    w.getD (j + 4) d = scheduleWord (i + j) (w.getD j d) (w.getD (j + 3) d) := by
  induction n generalizing i j w4 w3 w2 w1 with
  | zero => omega
  | succ n ih =>
    cases j with
    | zero => rfl
    | succ j =>
      have hnext := ih (Nat.lt_of_succ_lt_succ hj) (i + 1) w3 w2 w1 (scheduleWord i w4 w1)
      rw [Nat.add_right_comm] at hnext
      exact hnext

theorem keyExpansion_length (key : Block) : (keyExpansion key).length = 44 := by
  simp [keyExpansion, expandFrom_length]

theorem keyExpansion_recurrence (key : Block) {i : Nat} (d : AesWord) (h4 : 4 ≤ i) (h44 : i < 44) :
    (keyExpansion key).getD i d =
      scheduleWord i ((keyExpansion key).getD (i - 4) d) ((keyExpansion key).getD (i - 1) d) := by
  obtain ⟨j, rfl⟩ := Nat.exists_eq_add_of_le' h4
  have hword := expandFrom_recurrence (Nat.lt_of_add_lt_add_right h44 : j < 40) 4
    (loadBlock key).c0 (loadBlock key).c1 (loadBlock key).c2 (loadBlock key).c3 d
  rw [Nat.add_comm 4 j] at hword
  exact hword

theorem keyExpansion_key (key : Block) {i : Nat} (d : AesWord) (h : i < 4) :
    (keyExpansion key).getD i d =
      ⟨byteAt (blockBytes key) (4 * i), byteAt (blockBytes key) (4 * i + 1),
        byteAt (blockBytes key) (4 * i + 2), byteAt (blockBytes key) (4 * i + 3)⟩ := by
  rw [byteAt_blockBytes key (by omega), byteAt_blockBytes key (by omega),
    byteAt_blockBytes key (by omega), byteAt_blockBytes key (by omega)]
  match i, h with
  | 0, _ | 1, _ | 2, _ | 3, _ => rfl

/-- `Rcon[n]` for `n` in 1..10 is entry `n - 1` of the list of 40_aes R94. -/
theorem rcon_eq_byteAt {n : Nat} (h : 1 ≤ n) :
    rcon n = byteAt [0x01, 0x02, 0x04, 0x08, 0x10, 0x20, 0x40, 0x80, 0x1B, 0x36] (n - 1) := by
  obtain ⟨m, rfl⟩ := Nat.exists_eq_add_of_le' h
  rfl

/-! ### The commands (40_aes R98, R99) -/

theorem exec_aesEnc (s : State) :
    exec .aesEnc s = .next (ended 0 { s with blkOut := aesEncrypt s.key s.blkIn }) := rfl

theorem exec_aesDec (s : State) :
    exec .aesDec s = .next (ended 0 { s with blkOut := aesDecrypt s.key s.blkIn }) := rfl

/-- AES_ENC on the result of AES_DEC under the same KEY gives the block back. -/
theorem aesEnc_aesDec_blkOut {s t u : State} (hdec : exec .aesDec s = .next t)
    (henc : exec .aesEnc { t with blkIn := t.blkOut } = .next u) : u.blkOut = s.blkIn := by
  rw [exec_aesDec] at hdec
  cases hdec
  rw [exec_aesEnc] at henc
  cases henc
  exact aesEncrypt_aesDecrypt s.key s.blkIn

/-! ### The obligations -/

/-- Settles O26: the forward cipher undoes the inverse cipher round by round; the rule's two values
are evaluated. -/
theorem aesDecWritesThePlaintext : Obligations.AesDecWritesThePlaintext :=
  ⟨by decide, exec_aesDec, fun _ _ _ => aesEnc_aesDec_blkOut, by decide +kernel, by decide +kernel⟩

/-- Settles O31: the recurrence of `expandFrom`, split on whether the index is a multiple of 4. -/
theorem keyScheduleFollowsTheRecurrence : Obligations.KeyScheduleFollowsTheRecurrence := by
  refine ⟨fun key => ⟨keyExpansion_length key, fun i h => keyExpansion_key key _ h,
    fun i h4 h44 hmod => ?_, fun i h4 h44 hmod => ?_, fun n _ => ⟨rfl, fun st => rfl⟩⟩, ?_⟩
  · exact (keyExpansion_recurrence key _ h4 h44).trans (by rw [scheduleWord, if_neg hmod])
  · rw [← rcon_eq_byteAt (by omega)]
    exact (keyExpansion_recurrence key _ h4 h44).trans (by rw [scheduleWord, if_pos hmod]; rfl)
  · decide +kernel

/-- Settles O25: the effect is the command's definition; the rule's two values are evaluated. -/
theorem aesEncWritesTheCiphertext : Obligations.AesEncWritesTheCiphertext :=
  ⟨by decide, exec_aesEnc, by decide +kernel, by decide +kernel⟩

/-- Settles O29: the inverse of `x` is the byte that the affine map takes to `sbox x`. -/
theorem sboxIsAffineOfTheInverse : Obligations.SboxIsAffineOfTheInverse := by
  refine fun x => ⟨affineInverse (sbox x), ?_, gfMul_affineInverse_sbox x,
    fun i hi => (affineBit_affineInverse (sbox x) i hi).symm⟩
  rintro rfl
  decide

/-- Settles O30: both tables, entry by entry. -/
theorem invSboxInvertsSbox : Obligations.InvSboxInvertsSbox :=
  fun x => ⟨invSbox_sbox x, sbox_invSbox x⟩

end Sys2Proof.Machine

/-! ## Masking and the MIC (41_mask_mic R111 to R120)

The counter blocks byte by byte, doubling on big-endian integers, the chaining of CMAC over the
blocks of a message, and the obligations about masking, CMAC and the commands that use them. -/

namespace Sys2Proof.Machine

/-! ### Counter blocks and masking (41_mask_mic R111, R112, R117) -/

/-- The A-block and the B0 block differ in their first and their last byte only. -/
theorem cons_counterMiddle (tag : Byte) (d : BitVec 1) (a : Word) (f : BitVec 16) (n : Byte) :
    [tag] ++ counterMiddle d a f ++ [n] =
      [tag, 0, 0, 0, 0, d.setWidth 8] ++ wireWord a ++ wireHalf f ++ [0, 0, 0, n] := by
  simp [counterMiddle_eq]

theorem keystream_eq (key : Block) (d : BitVec 1) (a : Word) (f : BitVec 16) (i : Nat) :
    keystream key d a f i = aesEncrypt key (bytesBlock ([0x01, 0, 0, 0, 0, d.setWidth 8] ++
      wireWord a ++ wireHalf f ++ [0, 0, 0, BitVec.ofNat 8 i])) := by
  rw [keystream, aBlock, cons_counterMiddle]

theorem byteAt_maskBytes (key : Block) (d : BitVec 1) (a : Word) (f : BitVec 16) (p : List Byte)
    {j : Nat} (h : j < p.length) :
    byteAt (maskBytes key d a f p) j =
      byteAt p j ^^^ (keystream key d a f (j / 16 + 1)).extractLsb' (8 * (j % 16)) 8 := by
  rw [(maskBytes_spec key d a f p).2 j h, byteAt_blockBytes _ (Nat.mod_lt j (by decide))]

/-- The keystream does not depend on the string, so that masking again takes it off. -/
theorem maskBytes_maskBytes (key : Block) (d : BitVec 1) (a : Word) (f : BitVec 16)
    (p : List Byte) : maskBytes key d a f (maskBytes key d a f p) = p := by
  refine bytes_ext (by simp) fun j hj => ?_
  rw [maskBytes_length] at hj
  rw [byteAt_maskBytes _ _ _ _ _ hj, byteAt_maskBytes _ _ _ _ _ (by simpa using hj),
    BitVec.xor_assoc, BitVec.xor_self, BitVec.xor_zero]

/-! ### The subkeys (41_mask_mic R113) -/

/-- The big-endian integer of a block: byte 0 is the most significant. -/
def bigEndian (x : Block) : Nat := fromLE (blockBytes x).reverse

/-- Doubling modulo 2^128, with 0x87 if the top bit was set. -/
def doubleNat (n : Nat) : Nat := ((2 * n) % 2 ^ 128) ^^^ (if 2 ^ 127 ≤ n then 0x87 else 0)

theorem reverseBytes_toNat (x : Block) : (reverseBytes x).toNat = bigEndian x := by
  have hlt := fromLE_lt (blockBytes x).reverse
  rw [List.length_reverse, blockBytes_length] at hlt
  exact Nat.mod_eq_of_lt hlt

theorem bigEndian_reverseBytes (x : Block) : bigEndian (reverseBytes x) = x.toNat := by
  rw [bigEndian, reverseBytes, blockBytes_bytesBlock (by simp), List.reverse_reverse, blockBytes,
    fromLE_le]
  exact Nat.mod_eq_of_lt x.isLt

theorem doubleBE_toNat (x : BitVec 128) : (doubleBE x).toNat = doubleNat x.toNat := by
  have htop : x.getLsbD 127 = decide (2 ^ 127 ≤ x.toNat) :=
    (BitVec.msb_eq_getLsbD_last x).symm.trans (BitVec.msb_eq_decide x)
  have hshift : (x <<< 1).toNat = (2 * x.toNat) % 2 ^ 128 := by
    rw [BitVec.toNat_shiftLeft, Nat.shiftLeft_eq, Nat.mul_comm, Nat.pow_one]
  by_cases h : 2 ^ 127 ≤ x.toNat
  · rw [doubleBE, doubleNat, htop, if_pos (decide_eq_true h), if_pos h, BitVec.toNat_xor, hshift]
    rfl
  · rw [doubleBE, doubleNat, htop, if_neg (by simpa using h), if_neg h, hshift, Nat.xor_zero]

theorem bigEndian_cmacSubkeys_fst (key : Block) :
    bigEndian (cmacSubkeys key).1 = doubleNat (bigEndian (aesEncrypt key 0)) := by
  rw [cmacSubkeys, bigEndian_reverseBytes, doubleBE_toNat, reverseBytes_toNat]

theorem bigEndian_cmacSubkeys_snd (key : Block) :
    bigEndian (cmacSubkeys key).2 = doubleNat (bigEndian (cmacSubkeys key).1) := by
  simp only [cmacSubkeys, bigEndian_reverseBytes, doubleBE_toNat]

/-! ### The chain of blocks (41_mask_mic R114) -/

/-- A slice that begins where the first of two strings ends. -/
theorem slice_append_right (b c : List Byte) (n : Nat) :
    slice (b ++ c) b.length (b.length + n) = c.take n := by
  rw [slice, List.drop_left, Nat.add_sub_cancel_left]

@[simp] theorem length_flatMap_blockBytes (blocks : List Block) :
    (blocks.flatMap blockBytes).length = 16 * blocks.length := by
  induction blocks with
  | nil => rfl
  | cons b blocks ih =>
    rw [List.flatMap_cons, List.length_append, ih, blockBytes_length, List.length_cons]
    omega

/-- Slicing 16 bytes at a time gives back the blocks a string was put together from. -/
theorem foldl_slice_flatMap_blockBytes {α : Type} (f : α → Block → α) (x : α)
    (blocks : List Block) (last : List Byte) :
    (List.range blocks.length).foldl (fun x i =>
        f x (bytesBlock (slice (blocks.flatMap blockBytes ++ last) (16 * i) (16 * i + 16)))) x =
      blocks.foldl f x := by
  induction blocks using List.reverseRecOn generalizing last with
  | nil => rfl
  | append_singleton blocks b ih =>
    have hslice : slice (blocks.flatMap blockBytes ++ (blockBytes b ++ last))
        (16 * blocks.length) (16 * blocks.length + 16) = blockBytes b := by
      rw [← length_flatMap_blockBytes, slice_append_right, List.take_left' (blockBytes_length b)]
    rw [List.length_append, List.length_singleton, List.range_succ, List.foldl_append,
      List.foldl_append, List.flatMap_append, List.flatMap_singleton, List.append_assoc, ih]
    simp only [List.foldl_cons, List.foldl_nil, hslice, bytesBlock_blockBytes]

/-- The tag of `k` whole blocks and a last block of 1 to 16 bytes: the message has `k + 1` blocks,
and it ends on a whole block exactly when the last one has 16 bytes. -/
theorem cmac_blocks_append (key : Block) (blocks : List Block) {last : List Byte}
    (h1 : 1 ≤ last.length) (h16 : last.length ≤ 16) :
    cmac key (blocks.flatMap blockBytes ++ last) =
      aesEncrypt key (blocks.foldl (fun x b => aesEncrypt key (x ^^^ b)) 0 ^^^
        if last.length = 16 then bytesBlock last ^^^ (cmacSubkeys key).1
        else bytesBlock (last ++ [0x80] ++ zeros (15 - last.length)) ^^^ (cmacSubkeys key).2) := by
  have hlength : (blocks.flatMap blockBytes ++ last).length = 16 * blocks.length + last.length := by
    rw [List.length_append, length_flatMap_blockBytes]
  have hne : 16 * blocks.length + last.length ≠ 0 := by omega
  have hcount : (16 * blocks.length + last.length + 15) / 16 - 1 = blocks.length := by omega
  have hwhole : (16 * blocks.length + last.length) % 16 = 0 ↔ last.length = 16 := by omega
  have hrest : slice (blocks.flatMap blockBytes ++ last) (16 * blocks.length)
      (16 * blocks.length + last.length) = last := by
    rw [← length_flatMap_blockBytes, slice_append_right, List.take_length]
  simp only [cmac, hlength, ne_eq, hne, if_false, not_false_eq_true, true_and, hcount, hwhole,
    hrest, foldl_slice_flatMap_blockBytes (fun x b => aesEncrypt key (x ^^^ b))]

/-- The empty message is one block of padding. -/
theorem cmac_nil (key : Block) :
    cmac key [] = aesEncrypt key (bytesBlock (0x80 :: zeros 15) ^^^ (cmacSubkeys key).2) :=
  congrArg (aesEncrypt key) (BitVec.zero_xor)

/-! ### The commands (41_mask_mic R118 to R120) -/

/-- The bytes of the counter blocks hold the index or length N without its bit 8. -/
theorem ofNat_arg0N (s : State) : BitVec.ofNat 8 (arg0N s) = s.arg0.extractLsb' 0 8 := by
  apply BitVec.eq_of_toNat_eq
  simp only [arg0N, BitVec.extractLsb'_toNat, BitVec.toNat_ofNat]
  omega

/-- The MIC word of a message is the lowest word of its tag. -/
theorem micWord_cmacMic (key : Block) (m : List Byte) :
    micWord (cmacMic key m) = (cmac key m).extractLsb' 0 32 := by
  rw [cmacMic_eq, micWord_wireWord]

theorem exec_mask_of_le {s : State} (h : arg0N s ≤ 255) :
    exec .mask s = .next (ended 0 { s with
      blkOut := keystream s.key (arg0Dir s) s.arg2 (arg0Fcnt s) (arg0N s) }) := by
  simp only [exec, execMask, if_neg (Nat.not_lt.mpr h)]
  rfl

theorem exec_mask_of_lt {s : State} (h : 255 < arg0N s) : exec .mask s = .next (ended 1 s) := by
  simp only [exec, execMask, if_pos h]
  rfl

theorem exec_cmac_of_le {s : State} (h : arg0N s ≤ 256) :
    exec .cmac s = .next (ended 0 { s with
      blkOut := cmac s.key (ibuf s 0 (arg0N s))
      res0 := micWord (cmacMic s.key (ibuf s 0 (arg0N s))) }) := by
  simp only [exec, execCmac, if_neg (Nat.not_lt.mpr h)]
  rfl

theorem exec_cmac_of_lt {s : State} (h : 256 < arg0N s) : exec .cmac s = .next (ended 3 s) := by
  simp only [exec, execCmac, if_pos h]
  rfl

theorem exec_dataMic_of_le {s : State} (h : arg0N s ≤ 255) :
    exec .dataMic s = .next (ended 0 { s with
      res0 := micWord
        (dataMic s.key (arg0Dir s) s.arg2 (arg0Fcnt s) (ibuf s 0 (arg0N s))) }) := by
  simp only [exec, execDataMic, if_neg (Nat.not_lt.mpr h)]
  rfl

theorem exec_dataMic_of_lt {s : State} (h : 255 < arg0N s) :
    exec .dataMic s = .next (ended 3 s) := by
  simp only [exec, execDataMic, if_pos h]
  rfl

/-- The data MIC is the tag of the B0 block and the message, with the B0 block written out. -/
theorem micWord_dataMic (key : Block) (d : BitVec 1) (a : Word) (f : BitVec 16) (m : List Byte) :
    micWord (dataMic key d a f m) =
      (cmac key ([0x49, 0, 0, 0, 0, d.setWidth 8] ++ wireWord a ++ wireHalf f ++
        [0, 0, 0, BitVec.ofNat 8 m.length] ++ m)).extractLsb' 0 32 := by
  rw [dataMic, micWord_cmacMic, b0Block, cons_counterMiddle]

/-! ### The obligations -/

/-- Settles O35: the subkeys as doubled integers, and the chain by induction on the blocks. -/
theorem cmacIsTheChainedCipher : Obligations.CmacIsTheChainedCipher :=
  fun key => ⟨bigEndian_cmacSubkeys_fst key, bigEndian_cmacSubkeys_snd key, fun _ => rfl,
    cmac_nil key, fun blocks _ h1 h16 => cmac_blocks_append key blocks h1 h16⟩

/-- Settles O37: byte `j` is xored with a keystream byte that depends on `j` only. -/
theorem maskingIsSelfInverse : Obligations.MaskingIsSelfInverse := by
  refine fun key d a f p => ⟨maskBytes_length key d a f p, fun j hj => ?_,
    maskBytes_maskBytes key d a f p, fun h => by omega⟩
  rw [byteAt_maskBytes key d a f p hj, keystream_eq]

/-- Settles O32: the keystream block with its A-block written out; the rule's value is evaluated. -/
theorem maskWritesOneKeystreamBlock : Obligations.MaskWritesOneKeystreamBlock := by
  refine ⟨by decide, fun s h => ?_, fun s h => exec_mask_of_lt h, by decide +kernel⟩
  rw [exec_mask_of_le h, keystream_eq, ofNat_arg0N]
  rfl

/-- Settles O33: the MIC word is the lowest word of the tag; the rule's value is evaluated. -/
theorem cmacWritesTagAndMicWord : Obligations.CmacWritesTagAndMicWord := by
  refine ⟨by decide, fun s h => ?_, fun s h => exec_cmac_of_lt h, by decide +kernel⟩
  rw [exec_cmac_of_le h, micWord_cmacMic]
  rfl

/-- Settles O34: the tag over the B0 block and the message; the rule's value is evaluated. -/
theorem dataMicWritesMicWord : Obligations.DataMicWritesMicWord := by
  refine ⟨by decide, fun s h => ?_, fun s h => exec_dataMic_of_lt h, by decide +kernel⟩
  rw [exec_dataMic_of_le h, micWord_dataMic, ibuf_length, Nat.sub_zero, ofNat_arg0N]
  rfl

end Sys2Proof.Machine

/-! ## The join (43_join R150 to R156)

The join-request and the join-accept byte by byte, the derived keys and the outputs of JOIN_ACCEPT
written out, and the obligations about JOIN_REQ and JOIN_ACCEPT. -/

namespace Sys2Proof.Machine

/-- Completing a store to OBUF changes, of the registers, STATUS only. Stated for every byte string:
`rfl` on a string that evaluates would evaluate the store. -/
theorem complete_storeObuf_eq_ended (b : List Byte) (u : State) :
    complete .noError (storeObuf b u) =
      ended 0 { u with mem := (complete .noError (storeObuf b u)).mem } := rfl

/-! ### JOIN_REQ (43_join R150, R151) -/

theorem joinRequestBody_eq (s : State) :
    joinRequestBody s = [s.arg1.extractLsb' 8 3 ++ (0 : BitVec 5)] ++
      wireWord (s.appeui.extractLsb' 0 32) ++ wireWord (s.appeui.extractLsb' 32 32) ++
      wireWord (s.deveui.extractLsb' 0 32) ++ wireWord (s.deveui.extractLsb' 32 32) ++
      wireHalf s.devnonce := by
  simp only [joinRequestBody, le_eight, le_two, List.append_assoc]
  rfl

/-- The join-request: its 19 bytes, and their tag's lowest word on the wire. -/
def joinRequest (s : State) : List Byte :=
  joinRequestBody s ++ wireWord ((cmac s.appkey (joinRequestBody s)).extractLsb' 0 32)

theorem length_joinRequest (s : State) : (joinRequest s).length = 23 := by
  rw [joinRequest, ← cmacMic_eq, joinRequest_length]

theorem exec_joinReq (s : State) :
    exec .joinReq s = .next (complete .noError (storeObuf (joinRequest s) { s with res0 := 23 })) := by
  rw [joinRequest, ← cmacMic_eq]
  rfl

/-! ### The plaintext of a join-accept and what is derived from it (43_join R153, R155) -/

/-- The plaintext: byte 0 in clear, one block, and a second one in a frame of 33 bytes. -/
theorem joinPlain_eq {s : State} (h : arg0N s = 17 ∨ arg0N s = 33) :
    joinPlain s =
      [byteAt (ibuf s 0 (arg0N s)) 0] ++
        blockBytes (unwrapBlock s.cfg.jaUnwrap s.appkey
          (bytesBlock (slice (ibuf s 0 (arg0N s)) 1 17))) ++
        (if arg0N s = 33 then
          blockBytes (unwrapBlock s.cfg.jaUnwrap s.appkey
            (bytesBlock (slice (ibuf s 0 (arg0N s)) 17 33)))
        else []) := by
  unfold joinPlain
  rcases h with h | h <;> rw [h]
  · rw [unwrapJoinAccept_17, if_neg (by decide), List.append_nil]
  · rw [unwrapJoinAccept_33, if_pos rfl]

theorem deriveKey_eq (key : Block) (tag : Byte) (p : List Byte) (devnonce : BitVec 16) :
    deriveKey key tag p devnonce = aesEncrypt key
      (bytesBlock ([tag] ++ slice p 1 7 ++ wireHalf devnonce ++ [0, 0, 0, 0, 0, 0, 0])) := by
  have hwire : slice p 1 4 ++ slice p 4 7 = slice p 1 7 :=
    slice_append_slice p (by decide) (by decide)
  rw [deriveKey, deriveInput, List.append_assoc [tag], hwire, le_two]
  rfl

/-- JA_INFO, field by field (10_state R39). -/
theorem joinInfo_fields (dl rx : Byte) (cf : Bool) :
    (joinInfo dl rx cf).extractLsb' 0 8 = dl ∧ (joinInfo dl rx cf).extractLsb' 8 8 = rx ∧
      (joinInfo dl rx cf).getLsbD 16 = cf ∧ (joinInfo dl rx cf).extractLsb' 17 3 = 0 ∧
      (joinInfo dl rx cf).extractLsb' 20 3 = dl.extractLsb' 4 3 ∧
      (joinInfo dl rx cf).getLsbD 23 = false ∧
      (joinInfo dl rx cf).extractLsb' 24 4 = dl.extractLsb' 0 4 ∧
      (joinInfo dl rx cf).extractLsb' 28 4 = rx.extractLsb' 0 4 := by
  unfold joinInfo
  refine ⟨?_, ?_, ?cfList, ?_, ?_, ?reserved, ?_, ?_⟩
  case cfList => cases cf <;> simp
  case reserved => simp
  all_goals
    apply BitVec.eq_of_getLsbD_eq
    intro k hk
    interval_cases k <;> simp

/-- The outputs of JOIN_ACCEPT with the keys and the fields written out byte by byte. -/
theorem joinOutputs_eq (n : Nat) {p : List Byte} (s : State) (h : 11 ≤ p.length) :
    joinOutputs n p s = storeObuf p { s with
      stgNwkskey := aesEncrypt s.appkey
        (bytesBlock ([0x01] ++ slice p 1 7 ++ wireHalf s.devnonce ++ [0, 0, 0, 0, 0, 0, 0]))
      stgAppskey := aesEncrypt s.appkey
        (bytesBlock ([0x02] ++ slice p 1 7 ++ wireHalf s.devnonce ++ [0, 0, 0, 0, 0, 0, 0]))
      jaAppnonce := byteAt p 3 ++ byteAt p 2 ++ byteAt p 1
      stgNetid := byteAt p 6 ++ byteAt p 5 ++ byteAt p 4
      stgDevaddr := byteAt p 10 ++ byteAt p 9 ++ byteAt p 8 ++ byteAt p 7
      jaInfo := joinInfo (byteAt p 11) (byteAt p 12) (decide (n = 33))
      jaCflist := if n = 33 then bytesBlock (slice p 13 29) else 0
      res0 := BitVec.ofNat 32 n } := by
  simp only [joinOutputs, deriveKey_eq, slice_three p 1 (by omega), slice_three p 4 (by omega),
    slice_four p 7 (by omega), ofNat_fromLE_three, ofNat_fromLE_four, decide_eq_true_eq]

/-! ### JOIN_ACCEPT (43_join R152, R154, R156) -/

theorem exec_joinAccept_of_length {s : State} (h17 : arg0N s ≠ 17) (h33 : arg0N s ≠ 33) :
    exec .joinAccept s = .next (ended 3 s) := by
  simp only [exec, execJoinAccept, if_pos (And.intro h17 h33)]
  rfl

theorem exec_joinAccept_of_mic_ne {s : State} (h : arg0N s = 17 ∨ arg0N s = 33)
    (hmic : cmacMic s.appkey (slice (joinPlain s) 0 (arg0N s - 4)) ≠
      slice (joinPlain s) (arg0N s - 4) (arg0N s)) :
    exec .joinAccept s = .next (ended 2 s) := by
  have hlength : ¬ (arg0N s ≠ 17 ∧ arg0N s ≠ 33) := by omega
  simp only [exec, execJoinAccept, if_neg hlength, if_pos hmic]
  rfl

theorem exec_joinAccept_of_mic_eq {s : State} (h : arg0N s = 17 ∨ arg0N s = 33)
    (hmic : cmacMic s.appkey (slice (joinPlain s) 0 (arg0N s - 4)) =
      slice (joinPlain s) (arg0N s - 4) (arg0N s)) :
    exec .joinAccept s =
      .next (complete .noError (joinOutputs (arg0N s) (joinPlain s) s)) := by
  have hlength : ¬ (arg0N s ≠ 17 ∧ arg0N s ≠ 33) := by omega
  simp only [exec, execJoinAccept, if_neg hlength, if_neg (not_not_intro hmic)]
  rfl

/-! ### The obligations -/

/-- Settles O44: the request byte by byte, stored in OBUF; the rule's frame is evaluated. -/
theorem joinReqWritesTheRequest : Obligations.JoinReqWritesTheRequest := by
  refine ⟨by decide, fun s => ?_⟩
  rw [← joinRequestBody_eq]
  intro m frame
  refine ⟨length_joinRequest s, ⟨_, exec_joinReq s, ?_, ?_⟩, ?_⟩
  · exact complete_storeObuf_eq_ended _ _
  · exact obufHolds_storeObuf (joinRequest s) rfl rfl _
  · intro hkey happeui hdeveui hdevnonce hmtype
    have hm : m = [0x00, 0x01, 0x00, 0x00, 0xD0, 0x7E, 0xD5, 0xB3, 0x70, 0x30, 0x05, 0x1C, 0x00,
        0x0B, 0xA3, 0x04, 0x00, 0x34, 0x12] := by
      simp only [m, joinRequestBody_eq, happeui, hdeveui, hdevnonce, hmtype]
      decide
    simp only [frame, hm, hkey]
    decide +kernel

/-- Settles O45: the three ends of JOIN_ACCEPT, with its plaintext and its outputs written out. -/
theorem joinAcceptVerifiesAndDerives : Obligations.JoinAcceptVerifiesAndDerives := by
  refine ⟨by decide, fun s => ⟨exec_joinAccept_of_length, ?_⟩⟩
  intro (hn : arg0N s = 17 ∨ arg0N s = 33) b cipher p mic key
  have hplain : joinPlain s = p := joinPlain_eq hn
  clear_value p
  subst hplain
  have hlength : 17 ≤ (joinPlain s).length := by
    rw [joinPlain_length hn]
    omega
  refine ⟨exec_joinAccept_of_mic_ne hn, fun hmic => ?_⟩
  refine ⟨_, exec_joinAccept_of_mic_eq hn hmic, ?_, ?_, ?_⟩
  · rw [joinOutputs_eq _ s (by omega)]
    exact complete_storeObuf_eq_ended _ _
  · exact joinInfo_fields _ _ _
  · exact obufHolds_storeObuf _ rfl rfl _

end Sys2Proof.Machine

/-! ## The session and the classifiers (44_session_classify R170 to R176)

The session context replaced as a unit, the words that show it, the two tables on every MTYPE, and
the obligations about SESSION_LOAD, SESSION_CLEAR, GET_DIRECTION, ACK_REQUEST and MAX_PAYLOAD. -/

namespace Sys2Proof.Machine

/-! ### The session context as a unit (44_session_classify R170, R171) -/

/-- The session context that the staging registers hold (44_session_classify R170). -/
def State.staged (s : State) : Session :=
  ⟨s.stgFmt, true, s.stgNetid, s.stgDevaddr, s.stgNwkskey, s.stgAppskey⟩

@[simp] theorem staged_valid (s : State) : s.staged.valid = true := rfl

/-- The session context before a join (44_session_classify R171). -/
def Session.preJoin : Session := ⟨0, false, 0, 0, 0, 0⟩

/-- `s` with its whole session context replaced. -/
def State.withSession (x : Session) (s : State) : State :=
  { s with
    sessFmt := x.fmt
    sessValid := x.valid
    sessNetid := x.netid
    sessDevaddr := x.devaddr
    sessNwkskey := x.nwkskey
    sessAppskey := x.appskey }

@[simp] theorem withSession_sessValid (x : Session) (s : State) :
    (s.withSession x).sessValid = x.valid := rfl
@[simp] theorem withSession_werr (x : Session) (s : State) :
    (s.withSession x).werr = s.werr := rfl
@[simp] theorem withSession_session (s : State) : s.withSession s.session = s := rfl

/-- Without a session every register of the context is unset (10_state R33). -/
theorem SessionOk.session_eq_preJoin {s : State} (h : SessionOk s) (hinactive : s.sessValid = false) :
    s.session = Session.preJoin := by
  obtain ⟨hfmt, hnetid, hdevaddr, hnwkskey, happskey⟩ := h.2 hinactive
  simp only [State.session, Session.preJoin, hinactive, hfmt, hnetid, hdevaddr, hnwkskey, happskey]

/-! ### SESS_CFG and STATUS after a command (10_state R24, R33) -/

theorem bitAt_true_16 : bitAt true 16 = 0x00010000 := by
  decide

theorem sessCfgWord_complete_withSession (code : ResultCode) (x : Session) (s : State) :
    sessCfgWord (complete code (s.withSession x)) = x.fmt.setWidth 32 ||| bitAt x.valid 16 := rfl

theorem getLsbD_statusWord_sessValid (s : State) : (statusWord s).getLsbD 16 = s.sessValid := by
  simp [statusWord, bitAt]

/-- STATUS after a session command that ended without error, with WERR = 0. -/
theorem statusWord_complete_withSession (x : Session) {s : State} (hwerr : s.werr = false) :
    statusWord (complete .noError (s.withSession x)) = 0x00000002 ||| bitAt x.valid 16 := by
  simp [statusWord, resultBits, hwerr, bitAt]

/-! ### The effect of each command -/

theorem exec_sessionLoad_of_supported {s : State} {m : Nat} (h : maxplOf s.cfg s.stgFmt = some m) :
    exec .sessionLoad s = .next (complete .noError (s.withSession s.staged)) := by
  simp only [exec, execSessionLoad, h]
  rfl

theorem exec_sessionLoad_of_unsupported {s : State} (h : maxplOf s.cfg s.stgFmt = none) :
    exec .sessionLoad s = .next (ended 1 s) := by
  simp only [exec, execSessionLoad, h]
  rfl

theorem exec_sessionClear (s : State) :
    exec .sessionClear s = .next (complete .noError (s.withSession Session.preJoin)) := rfl

theorem exec_compose_of_no_session {s : State} (h : s.sessValid = false) :
    exec .compose s = .next (ended 4 s) := by
  simp only [exec, execCompose, if_pos h]
  rfl

theorem exec_decode_of_no_session {s : State} (h : s.sessValid = false) :
    exec .decode s = .next (ended 4 s) := by
  simp only [exec, execDecode, if_pos h]
  rfl

theorem exec_getDirection (s : State) :
    exec .getDirection s = .next (ended 0 { s with res0 := (dirOf (arg1Mtype s)).setWidth 32 }) := rfl

theorem exec_ackRequest (s : State) :
    exec .ackRequest s = .next (ended 0 { s with res0 := (ackOf (arg1Mtype s)).setWidth 32 }) := rfl

theorem exec_maxPayload_of_session {s : State} (h : s.sessValid = true) :
    exec .maxPayload s = .next (ended 0 { s with res0 := BitVec.ofNat 32 (sessionMaxpl s) }) := by
  simp only [exec, execMaxPayload, h, Bool.true_eq_false, if_false]
  rfl

theorem exec_maxPayload_of_no_session {s : State} (h : s.sessValid = false) :
    exec .maxPayload s = .next (ended 1 s) := by
  simp only [exec, execMaxPayload, if_pos h]
  rfl

/-! ### The tables (44_session_classify R172, R174) -/

theorem arg1Mtype_toNat (s : State) : (arg1Mtype s).toNat = (s.arg1.toNat / 256) % 8 := by
  simp [arg1Mtype, Nat.shiftRight_eq_div_pow]

/-- The direction table on every MTYPE: downlink for the odd types but 7. -/
theorem setWidth_dirOf : ∀ t : BitVec 3,
    (dirOf t).setWidth 32 = (if t.toNat = 1 ∨ t.toNat = 3 ∨ t.toNat = 5 then 1 else 0 : Word) := by
  decide

/-- The acknowledgement table on every MTYPE: the two confirmed types. -/
theorem setWidth_ackOf : ∀ t : BitVec 3,
    (ackOf t).setWidth 32 = (if t.toNat = 4 ∨ t.toNat = 5 then 1 else 0 : Word) := by
  decide

/-! ### The obligations -/

/-- Settles O47: the staged context replaces the session, or FORMAT_ERROR keeps it; SESS_CFG and
STATUS are read off the new context. -/
theorem sessionLoadCopiesTheStaging : Obligations.SessionLoadCopiesTheStaging := by
  refine ⟨by decide, fun s m hsupported => ?_, fun s => exec_sessionLoad_of_unsupported⟩
  have hcfg : sessCfgWord (complete .noError (s.withSession s.staged)) =
      s.stgFmt.setWidth 32 ||| 0x00010000 := by
    rw [sessCfgWord_complete_withSession, staged_valid, bitAt_true_16]
    rfl
  have hstatus (hwerr : s.werr = false) :
      statusWord (complete .noError (s.withSession s.staged)) = 0x00010002 := by
    rw [statusWord_complete_withSession _ hwerr, staged_valid]
    decide
  refine ⟨_, exec_sessionLoad_of_supported hsupported, getLsbD_statusWord_sessValid _, hcfg,
    fun hfmt hwerr => ⟨?_, hstatus hwerr⟩, rfl⟩
  rw [hcfg, hfmt]
  decide

/-- Settles O48: the pre-join context replaces the session, which it already is when none is active;
without a session COMPOSE and DECODE fail their first check. -/
theorem sessionClearReturnsToPreJoin : Obligations.SessionClearReturnsToPreJoin := by
  refine ⟨by decide, fun s => ⟨_, exec_sessionClear s, fun hwerr => ⟨?_, ?_⟩, fun hok hinactive => ?_,
    rfl, exec_compose_of_no_session rfl, exec_decode_of_no_session rfl⟩⟩
  · rw [sessCfgWord_complete_withSession]
    decide
  · rw [statusWord_complete_withSession _ hwerr]
    decide
  · rw [← hok.session_eq_preJoin hinactive, withSession_session]
    rfl

/-- Settles O49: both tables at MTYPE, which is bits [10:8] of ARG1. -/
theorem classifiersFollowTheTables : Obligations.ClassifiersFollowTheTables := by
  refine ⟨by decide, by decide, fun s => ?_⟩
  rw [← arg1Mtype_toNat]
  exact ⟨by rw [exec_getDirection, setWidth_dirOf], by rw [exec_ackRequest, setWidth_ackOf]⟩

/-- Settles O50: the ceiling of the session's format, which fits RES0; with no session the command
fails its only check. -/
theorem maxPayloadReportsTheCeiling : Obligations.MaxPayloadReportsTheCeiling := by
  refine ⟨by decide, fun s m hactive hmaxpl => ?_, fun s => exec_maxPayload_of_no_session⟩
  have hceiling : m ≤ 242 := maxplOf_le hmaxpl
  refine ⟨_, exec_maxPayload_of_session hactive, rfl, ?_, hceiling⟩
  show (BitVec.ofNat 32 (sessionMaxpl s)).toNat = m
  rw [sessionMaxpl_of_some hmaxpl, BitVec.toNat_ofNat]
  omega

end Sys2Proof.Machine

/-! ## The encoding of commands (30_encoding R70, R71, R79)

A word is its opcode and its reserved bits; the decoder and the encoder on these two fields, and the
obligations that say so. -/

namespace Sys2Proof.Machine

/-- A word is its OPC field and the 24 bits above it. -/
theorem word_eq_append_iff (w : Word) (hi : BitVec 24) (opc : Byte) :
    w = hi ++ opc ↔ w.extractLsb' 8 24 = hi ∧ w.extractLsb' 0 8 = opc := by
  have hsplit : w = w.extractLsb' 8 24 ++ w.extractLsb' 0 8 := by
    apply BitVec.eq_of_toNat_eq
    have hlt := w.isLt
    simp only [toNat_append_add, BitVec.extractLsb'_toNat, Nat.shiftRight_eq_div_pow]
    omega
  constructor
  · rintro rfl
    exact ⟨BitVec.extractLsb'_append_eq_left, BitVec.extractLsb'_append_eq_right⟩
  · rintro ⟨rfl, rfl⟩
    exact hsplit

theorem commandOfOpcode_opcode (i : Instr) : commandOfOpcode (opcode i) = some i := by
  cases i <;> rfl

/-- No two rows of the opcode table name one command. -/
theorem eq_opcode_of_commandOfOpcode :
    ∀ opc : Byte, (commandOfOpcode opc).all (fun i => opc == opcode i) = true := by decide +kernel

theorem commandOfOpcode_eq_some_iff {opc : Byte} {i : Instr} :
    commandOfOpcode opc = some i ↔ opc = opcode i := by
  constructor
  · intro h
    have hall := eq_opcode_of_commandOfOpcode opc
    rw [h] at hall
    exact eq_of_beq hall
  · rintro rfl
    exact commandOfOpcode_opcode i

/-- The opcodes that 30_encoding R79 lists as illegal. -/
def UnlistedOpcode (opc : Nat) : Prop :=
  opc = 0x00 ∨ (0x06 ≤ opc ∧ opc ≤ 0x0F) ∨ (0x14 ≤ opc ∧ opc ≤ 0x1F) ∨
    (0x22 ≤ opc ∧ opc ≤ 0x2F) ∨ (0x32 ≤ opc ∧ opc ≤ 0x3F) ∨ (0x43 ≤ opc ∧ opc ≤ 0xFF)

theorem commandOfOpcode_eq_none_iff :
    ∀ opc : Byte, commandOfOpcode opc = none ↔ UnlistedOpcode opc.toNat := by
  unfold UnlistedOpcode
  decide +kernel

theorem decode_eq_command_iff {w : Word} {i : Instr} :
    decode w = .command i ↔
      w.extractLsb' 8 24 = 0 ∧ commandOfOpcode (w.extractLsb' 0 8) = some i := by
  unfold decode
  by_cases hzero : w.extractLsb' 8 24 = 0#24
  · cases commandOfOpcode (w.extractLsb' 0 8) <;> simp [hzero]
  · simp [hzero]

theorem decode_eq_illegal_iff {w : Word} :
    (∃ r, decode w = .illegal r) ↔
      w.extractLsb' 8 24 ≠ 0 ∨ commandOfOpcode (w.extractLsb' 0 8) = none := by
  unfold decode
  by_cases hzero : w.extractLsb' 8 24 = 0#24
  · cases commandOfOpcode (w.extractLsb' 0 8) <;> simp [hzero]
  · simp [hzero]

theorem decode_eq_command_iff_encode {w : Word} {i : Instr} :
    decode w = .command i ↔ w = encode i := by
  rw [decode_eq_command_iff, commandOfOpcode_eq_some_iff]
  exact (word_eq_append_iff w 0 (opcode i)).symm

theorem decode_encode (i : Instr) : decode (encode i) = .command i :=
  decode_eq_command_iff_encode.mpr rfl

/-! ### The obligations -/

/-- Settles O3: the decoder looks at two fields, and the word is these two fields. -/
theorem everyWordIsOneCommandOrIllegal : Obligations.EveryWordIsOneCommandOrIllegal := by
  refine fun w => ⟨fun i => decode_eq_command_iff_encode, ?_⟩
  rw [decode_eq_illegal_iff, commandOfOpcode_eq_none_iff]
  rfl

/-- Settles O1: the opcode field names the command and the reserved bits are zero. -/
theorem decodeOfEncodeIsTheCommand : Obligations.DecodeOfEncodeIsTheCommand := decode_encode

/-- Settles O2: each number is the word of its command. -/
theorem opcodeMapDecodes : Obligations.OpcodeMapDecodes :=
  ⟨decode_encode .aesEnc, decode_encode .aesDec, decode_encode .mask, decode_encode .cmac,
    decode_encode .dataMic, decode_encode .compose, decode_encode .decode,
    decode_encode .getAddress, decode_encode .getHeader, decode_encode .joinReq,
    decode_encode .joinAccept, decode_encode .sessionLoad, decode_encode .sessionClear,
    decode_encode .getDirection, decode_encode .ackRequest, decode_encode .maxPayload⟩

end Sys2Proof.Machine

/-! ## Reads and writes of the register window (10_state R22 to R49)

Which register and which word of it an offset names, what one read and one write of it do, and the
obligations about accesses with a command running and with none. -/

namespace Sys2Proof.Machine

/-! ### The word an offset names -/

/-- Word `k` of a register stands at its first offset plus `4k` (10_state R22). -/
theorem locate_word (r : Reg) : ∀ k, k < r.words → locate (r.base + 4 * k) = (r, k) := by
  cases r <;> decide +kernel

/-- The offsets of the output-side registers of 10_state R49. -/
theorem locate_output : ∀ off : Nat, off < 1024 → off % 4 = 0 →
    (off = 0x020 ∨ off = 0x024 ∨ off = 0x028 ∨ (0x050 ≤ off ∧ off ≤ 0x0BF ∧ off ≠ 0x06C ∧
      off ≠ 0x09C) ∨ off = 0x0D4 ∨ off = 0x0D8 ∨ (0x0F0 ≤ off ∧ off ≤ 0x0FF) ∨
      (0x200 ≤ off ∧ off ≤ 0x2FF)) →
    readsFreeWhileBusy (locate off).1 = true := by
  decide +kernel

/-- The writable bits of the register at an offset (10_state R22): FMT, NETID and DEVNONCE are
narrower than the bus. -/
def storedBits (off : Nat) : Word :=
  if off = 0x090 then 0x000000FF else if off = 0x094 then 0x00FFFFFF
  else if off = 0x0D0 then 0x0000FFFF else 0xFFFFFFFF

/-- The offsets of the registers that store what the host writes, with the bits they store. -/
theorem locate_writableBits : ∀ off : Nat, off < 1024 → off % 4 = 0 →
    ((0x010 ≤ off ∧ off < 0x01C) ∨ (0x030 ≤ off ∧ off < 0x050) ∨ (0x090 ≤ off ∧ off < 0x09C) ∨
     (0x0A0 ≤ off ∧ off < 0x0D4) ∨ (0x0E0 ≤ off ∧ off < 0x0F0) ∨ (0x100 ≤ off ∧ off < 0x200)) →
    (locate off).1.writableBits = some (storedBits off) := by
  decide +kernel

theorem Reg.ne_reserved_of_writableBits {r : Reg} {m : Word} (h : r.writableBits = some m) :
    r ≠ .reserved := by
  rintro rfl
  cases h

/-- Two aligned offsets that lead to one word of one register are the same. -/
theorem eq_of_locate_eq {off off' : Nat} (hoff : off < 1024) (hoff' : off' < 1024)
    (halign : off % 4 = 0) (halign' : off' % 4 = 0) (hres : (locate off).1 ≠ .reserved)
    (h : locate off' = locate off) : off' = off := by
  have hspec := locate_spec off hoff halign hres
  have hspec' := locate_spec off' hoff' halign' (h ▸ hres)
  rw [h] at hspec'
  exact hspec'.1.trans hspec.1.symm

/-! ### One read -/

/-- A free read of 10_state R49. -/
theorem busRead_free {off : Nat} {s : State} (hbusy : s.busy = true)
    (hfree : readsFreeWhileBusy (locate off).1 = true) :
    busRead off s = (Config.busyRead s.draws, { s with draws := s.draws + 1 }) := by
  rcases busRead_cases off s with ⟨-, hnot⟩ | ⟨hread, -⟩
  · exact absurd ⟨hbusy, hfree⟩ hnot
  · exact hread

/-- With no command running, a read of a word of a register answers it. -/
theorem busRead_word_idle {s : State} (hidle : s.busy = false) (r : Reg) {k : Nat}
    (hk : k < r.words) : busRead (r.base + 4 * k) s = (readReg s r k, s) := by
  rw [busRead_idle _ s hidle, locate_word r k hk]

/-- Whatever BUSY is, a read of a word of an input-side register answers it. -/
theorem busRead_word_input (s : State) (r : Reg) {k : Nat} (hk : k < r.words)
    (hinput : readsFreeWhileBusy r = false) : busRead (r.base + 4 * k) s = (readReg s r k, s) := by
  rw [busRead_stored s (by rw [locate_word r k hk]; exact hinput), locate_word r k hk]

/-- Word `k` of the two buffers, which are adjacent in the window, byte by byte. -/
theorem busRead_buffer_idle {s : State} (hidle : s.busy = false) {k : Nat} (hk : k < 128) :
    busRead (0x100 + 4 * k) s =
      (byteOf s (0x103 + 4 * k) ++ byteOf s (0x102 + 4 * k) ++ byteOf s (0x101 + 4 * k)
        ++ byteOf s (0x100 + 4 * k), s) := by
  have hbytes (base i : Nat) (hbase : base + 4 * i = 0x100 + 4 * k) :
      bufWord s base i = byteOf s (0x103 + 4 * k) ++ byteOf s (0x102 + 4 * k)
        ++ byteOf s (0x101 + 4 * k) ++ byteOf s (0x100 + 4 * k) := by
    rw [bufWord_eq, hbase, show 0x103 + 4 * k = 0x100 + 4 * k + 3 by omega,
      show 0x102 + 4 * k = 0x100 + 4 * k + 2 by omega,
      show 0x101 + 4 * k = 0x100 + 4 * k + 1 by omega]
  by_cases hibuf : k < 64
  · rw [← hbytes ibufBase k rfl]
    exact busRead_word_idle hidle .ibuf hibuf
  · have hoff : 0x100 + 4 * k = Reg.base .obuf + 4 * (k - 64) := by
      show _ = 0x200 + _
      omega
    rw [← hbytes obufBase (k - 64) hoff.symm, hoff]
    exact busRead_word_idle hidle .obuf (show k - 64 < 64 by omega)

/-- A word of IBUF, whatever BUSY is. -/
theorem busRead_ibuf (s : State) {k : Nat} (hk : k < 64) :
    busRead (0x100 + 4 * k) s =
      (byteOf s (0x103 + 4 * k) ++ byteOf s (0x102 + 4 * k) ++ byteOf s (0x101 + 4 * k)
        ++ byteOf s (0x100 + 4 * k), s) := by
  rw [show 0x103 + 4 * k = 0x100 + 4 * k + 3 by omega,
    show 0x102 + 4 * k = 0x100 + 4 * k + 2 by omega,
    show 0x101 + 4 * k = 0x100 + 4 * k + 1 by omega]
  exact (busRead_word_input s .ibuf hk rfl).trans (by rw [readReg, bufWord_eq]; rfl)

/-! ### One write -/

/-- With no command running, a write of a word of a register reaches it. -/
theorem busWrite_word_idle {s : State} (hidle : s.busy = false) (v : Word) (r : Reg) {k : Nat}
    (hk : k < r.words) : busWrite (r.base + 4 * k) v s = writeReg v s r k := by
  rw [busWrite_idle _ v s hidle, locate_word r k hk]

/-- Every word of a wide register after one of them is written (20_memory R53). -/
theorem getWord_setWord {w : Nat} (x : BitVec w) {k : Nat} (v : Word) (h : 32 * k + 32 ≤ w)
    (j : Nat) : getWord (setWord x k v) j = if j = k then v else getWord x j := by
  split
  case isTrue heq => rw [heq, getWord_setWord_same x k v h]
  case isFalse hne => exact getWord_setWord_other x v hne

/-- Every byte of the buffers after a word is written at an offset (20_memory R55). -/
theorem byteOf_writeWord (s : State) (a : Nat) (v : Word) (x : Nat) :
    byteOf { s with mem := s.mem.writeBytes a (le 4 v.toNat) } x =
      if a ≤ x ∧ x < a + 4 then v.extractLsb' (8 * (x - a)) 8 else byteOf s x := by
  rw [byteOf_writeBytes, le_length]
  split
  case isTrue hin => rw [byteAt_le _ (by omega), ofNat_div_256]
  case isFalse => rfl

/-- A write of a register that stores it does not start a command. -/
theorem writeReg_busy_of_writableBits {r : Reg} {m : Word} (v : Word) (s : State) (i : Nat)
    (h : r.writableBits = some m) : (writeReg v s r i).busy = s.busy := by
  cases r <;> first | rfl | cases h

/-! ### The obligations -/

/-- Settles O14: the two offsets lead to the same word of a register only if they are equal. -/
theorem writeThenReadWord : Obligations.WriteThenReadWord := by
  intro s off v hidle halign hoff
  have hlt : off < 1024 := by omega
  have hbits := locate_writableBits off hlt halign (by omega)
  have hres := Reg.ne_reserved_of_writableBits hbits
  have hword := (locate_spec off hlt halign hres).2
  have hidle' : (writeReg v s (locate off).1 (locate off).2).busy = false :=
    (writeReg_busy_of_writableBits v s _ hbits).trans hidle
  simp only [busWrite_idle _ v s hidle, busRead_idle _ _ hidle', busRead_idle _ _ hidle]
  refine ⟨readReg_writeReg_same s v _ _ _ hbits hword, fun off' halign' hoff' hne => ?_⟩
  have hlt' : off' < 1024 := by omega
  by_cases hres' : (locate off').1 = .reserved
  · rw [hres']
    rfl
  · refine readReg_writeReg_other s v _ _ _ _ _ hbits (fun hreg hindex => hne ?_) hword
      (locate_spec off' hlt' halign' hres').2
    exact eq_of_locate_eq hlt hlt' halign halign' hres (Prod.ext hreg hindex)

/-- Settles O15: the named offsets lead to output-side registers, and the others named to words of
input-side registers. -/
theorem busyReadsAreFreeOnTheOutputSideOnly : Obligations.BusyReadsAreFreeOnTheOutputSideOnly := by
  intro s hbusy
  have hinput (r : Reg) {k : Nat} (hk : k < r.words) (hr : readsFreeWhileBusy r = false) :=
    busRead_word_input s r hk hr
  refine ⟨fun off halign hoff => busRead_free hbusy (locate_output off (by omega) halign hoff),
    hinput .status Nat.zero_lt_one rfl, hinput .irqEn Nat.zero_lt_one rfl,
    hinput .arg0 Nat.zero_lt_one rfl, hinput .arg1 Nat.zero_lt_one rfl,
    hinput .arg2 Nat.zero_lt_one rfl, hinput .devnonce Nat.zero_lt_one rfl, ?_, ?_, ?_⟩
  · exact fun k hk => ⟨hinput .key hk rfl, hinput .blkIn hk rfl, hinput .appkey hk rfl⟩
  · exact fun k hk => ⟨hinput .appeui hk rfl, hinput .deveui hk rfl⟩
  · exact fun k hk => busRead_ibuf s hk

/-- Settles O16: each offset is that of a word of the register named. -/
theorem idleReadsGiveTheNamedRegister : Obligations.IdleReadsGiveTheNamedRegister := by
  intro s hidle
  have hread (r : Reg) {k : Nat} (hk : k < r.words) := busRead_word_idle hidle r hk
  have hone (r : Reg) (hr : r.words = 1) := hread r (k := 0) (hr ▸ Nat.zero_lt_one)
  refine ⟨⟨hone .cmd rfl, hone .status rfl, hone .irqEn rfl⟩,
    ⟨hone .arg0 rfl, hone .arg1 rfl, hone .arg2 rfl⟩,
    ⟨hone .res0 rfl, hone .res1 rfl, hone .res2 rfl⟩,
    ⟨hone .sessCfg rfl, hone .sessNetid rfl, hone .sessDevaddr rfl⟩,
    ⟨hone .stgFmt rfl, hone .stgNetid rfl, hone .stgDevaddr rfl⟩,
    ⟨hone .devnonce rfl, hone .jaAppnonce rfl, hone .jaInfo rfl⟩, ?_, ?_, ?_⟩
  · exact fun k hk => ⟨hread .key hk, hread .blkIn hk, hread .blkOut hk, hread .sessNwkskey hk,
      hread .sessAppskey hk, hread .stgNwkskey hk, hread .stgAppskey hk, hread .appkey hk,
      hread .jaCflist hk⟩
  · exact fun k hk => ⟨hread .appeui hk, hread .deveui hk⟩
  · exact fun k hk => busRead_buffer_idle hidle hk

/-- Settles O17: each offset is that of a word of the register named, and `setWord` and
`writeBytes` replace that word. -/
theorem idleWritesStoreIntoTheNamedRegister : Obligations.IdleWritesStoreIntoTheNamedRegister := by
  intro s v hidle
  have hwrite (r : Reg) {k : Nat} (hk : k < r.words) := busWrite_word_idle hidle v r hk
  have hone (r : Reg) (hr : r.words = 1) := hwrite r (k := 0) (hr ▸ Nat.zero_lt_one)
  refine ⟨⟨hone .arg0 rfl, hone .arg1 rfl, hone .arg2 rfl, hone .stgFmt rfl, hone .stgNetid rfl,
    hone .stgDevaddr rfl, hone .devnonce rfl⟩, fun k hk => ?_, fun k hk => ?_, fun k hk => ?_⟩
  · intro stored
    have hstored (x : Block) : stored x (setWord x k v) :=
      fun j _ => getWord_setWord x v (by omega) j
    exact ⟨⟨_, hwrite .key hk, hstored _⟩, ⟨_, hwrite .blkIn hk, hstored _⟩,
      ⟨_, hwrite .stgNwkskey hk, hstored _⟩, ⟨_, hwrite .stgAppskey hk, hstored _⟩,
      ⟨_, hwrite .appkey hk, hstored _⟩⟩
  · intro stored
    have hstored (x : BitVec 64) : stored x (setWord x k v) :=
      fun j _ => getWord_setWord x v (by omega) j
    exact ⟨⟨_, hwrite .appeui hk, hstored _⟩, ⟨_, hwrite .deveui hk, hstored _⟩⟩
  · refine ⟨_, hwrite .ibuf hk, fun a => ?_⟩
    rw [byteOf_writeWord, show 0x104 + 4 * k = ibufBase + 4 * k + 4 by simp only [ibufBase]; omega]
    rfl

end Sys2Proof.Machine

/-! ## The clock cycle (20_memory R50 to R52, 60_exceptions R192, 70_reset_and_hazards R210)

What one cycle does, by the kinds of cycle there are: a reset, a refused access, an access alone,
one with a command going on, and one with a completion; runs of many cycles while a
command goes on; and the obligations about them. -/

namespace Sys2Proof.Machine

/-! ### The access of a cycle -/

/-- `s` with this answer on the pins. -/
def respond (answer : Option BusResponse) (s : State) : State := { s with response := answer }

/-- `s` with so many cycles of its command to go. -/
def withRemaining (m : Nat) (s : State) : State := { s with remaining := m }

/-- The answer to an accepted write (20_memory R52). -/
def writeAnswer : Option BusResponse := some { rdata := none, err := false }

/-- The answer to an accepted read of this word (20_memory R52). -/
def readAnswer (v : Word) : Option BusResponse := some { rdata := some v, err := false }

/-- An aligned word access (20_memory R51), in the terms of claims. -/
theorem wordAccess_iff (p : BusCycle) :
    p.wordAccess = true ↔ p.size = 2 ∧ p.addr.toNat % 4 = 0 := by
  have haddr : p.addr.extractLsb' 0 2 = 0#2 ↔ p.addr.toNat % 4 = 0 := by
    rw [← BitVec.toNat_inj, BitVec.extractLsb'_toNat]
    rfl
  rw [BusCycle.wordAccess, Bool.and_eq_true, beq_iff_eq, beq_iff_eq, haddr]
  rfl

theorem busAccess_none {p : BusCycle} (s : State) (hsel : p.sel = false) :
    busAccess p s = .ok (respond none s) := by
  rw [busAccess, if_pos hsel]
  rfl

theorem busAccess_write {p : BusCycle} (s : State) (hsel : p.sel = true)
    (hword : p.wordAccess = true) (hwe : p.we = true) :
    busAccess p s = .ok (respond writeAnswer (busWrite p.addr.toNat p.wdata s)) := by
  simp only [busAccess, hsel, hword, hwe, Bool.true_eq_false, if_false, if_true]
  rfl

theorem busAccess_read {p : BusCycle} (s : State) (hsel : p.sel = true)
    (hword : p.wordAccess = true) (hwe : p.we = false) :
    busAccess p s =
      .ok (respond (readAnswer (busRead p.addr.toNat s).1) (busRead p.addr.toNat s).2) := by
  simp only [busAccess, hsel, hword, hwe, Bool.true_eq_false, Bool.false_eq_true, if_false]
  rfl

theorem writePins_wordAccess {off : Offset} (v : Word) (h : off.toNat % 4 = 0) :
    (writePins off v).wordAccess = true :=
  (wordAccess_iff _).mpr ⟨rfl, h⟩

theorem busWrite_host (off : Nat) (v : Word) (s : State) : (busWrite off v s).host = s.host := by
  rcases busWrite_cases off v s with h | h <;> rw [h]
  · rfl
  · cases (locate off).1 <;> rfl

theorem busRead_host (off : Nat) (s : State) : (busRead off s).2.host = s.host := by
  rcases busRead_cases off s with ⟨h, -⟩ | ⟨h, -⟩ <;> rw [h]

/-- The host's read of STATUS is never a free one. -/
theorem busAccess_readStatus (s : State) :
    busAccess (readPins statusOffset) s = .ok (respond (readAnswer (statusWord s)) s) := by
  rw [busAccess_read s rfl rfl rfl, show busRead (readPins statusOffset).addr.toNat s =
    (statusWord s, s) from busRead_stored s rfl]

/-- Without a reset and a refusal there is an access and its answer. -/
theorem busAccess_ok_or_refused (p : BusCycle) (s : State) :
    (∃ s', busAccess p s = .ok s') ∨ (p.sel = true ∧ p.wordAccess = false ∧
      busAccess p s = .error (.unsupportedAccess 0 true)) := by
  cases haccess : busAccess p s with
  | ok s' => exact .inl ⟨s', rfl⟩
  | error r =>
    obtain ⟨hsel, hword, rfl⟩ := busAccess_error.mp haccess
    exact .inr ⟨hsel, hword, rfl⟩

/-! ### The kinds of cycle -/

theorem step_reset {s : State} (hrst : (currentPins s).rst = true) :
    step s = .next (resetCycle (advanceHost s)) := by
  simp only [step, clockCycle, hrst, if_true]

theorem step_refused {s : State} {r : Refusal} (hrst : (currentPins s).rst = false)
    (haccess : busAccess (currentPins s) (advanceHost s) = .error r) : step s = .refused r := by
  simp only [step, clockCycle, hrst, Bool.false_eq_true, if_false, haccess]

theorem step_access {s s' : State} (hrst : (currentPins s).rst = false)
    (haccess : busAccess (currentPins s) (advanceHost s) = .ok s') :
    step s = if s.busy then coreEdge s' else .next s' := by
  simp only [step, clockCycle, hrst, Bool.false_eq_true, if_false, haccess]

theorem step_access_idle {s s' : State} (hrst : (currentPins s).rst = false)
    (hidle : s.busy = false)
    (haccess : busAccess (currentPins s) (advanceHost s) = .ok s') : step s = .next s' := by
  rw [step_access hrst haccess, hidle, if_neg Bool.false_ne_true]

/-- The access of a cycle with a command running keeps the word latched and the cycles to go. -/
theorem pending_remaining_of_busAccess {s s' : State} (hbusy : s.busy = true)
    (haccess : busAccess (currentPins s) (advanceHost s) = .ok s') :
    s'.pending = s.pending ∧ s'.remaining = s.remaining := by
  obtain ⟨hs', -⟩ := busAccess_busy (s := advanceHost s) hbusy haccess
  rw [hs']
  exact ⟨rfl, rfl⟩

/-- A cycle in which no command completes. -/
theorem step_without_completion {s s' : State} (hrst : (currentPins s).rst = false)
    (hgoing : s.busy = true → 2 ≤ s.remaining)
    (haccess : busAccess (currentPins s) (advanceHost s) = .ok s') :
    step s = .next (withRemaining (if s.busy then s.remaining - 1 else s'.remaining) s') := by
  rw [step_access hrst haccess]
  cases hbusy : s.busy with
  | false => rfl
  | true =>
    obtain ⟨-, hremaining⟩ := pending_remaining_of_busAccess hbusy haccess
    have hmore := hgoing hbusy
    rw [if_pos rfl, coreEdge, if_neg (by omega), hremaining]
    rfl

/-- The last cycle of a command. -/
theorem step_completion {s s' : State} (hrst : (currentPins s).rst = false) (hbusy : s.busy = true)
    (hlast : s.remaining ≤ 1)
    (haccess : busAccess (currentPins s) (advanceHost s) = .ok s') :
    step s = runPending (withRemaining 0 s') := by
  obtain ⟨-, hremaining⟩ := pending_remaining_of_busAccess hbusy haccess
  rw [step_access hrst haccess, if_pos hbusy, coreEdge, if_pos (by omega)]
  rfl

theorem runPending_command {s : State} {i : Instr} (h : decode s.pending = .command i) :
    runPending s = exec i s := by
  simp only [runPending, h]

theorem runPending_illegal {s : State} {r : IllegalWord} (h : decode s.pending = .illegal r) :
    runPending s = .next (ended 15 s) := by
  simp only [runPending, h]
  rfl

/-- Every completion step ends in a state (30_encoding R82, 60_exceptions R192). -/
theorem exists_completesTo (s : State) : ∃ t, CompletesTo s t := by
  cases hdecode : decode s.pending with
  | command i =>
    obtain ⟨code, u, hexec, -⟩ := exec_completes i s
    exact ⟨_, .inl ⟨i, hdecode, hexec⟩⟩
  | illegal r => exact ⟨_, .inr ⟨r, hdecode, rfl⟩⟩

/-- Without a refusal every cycle has a next state. -/
theorem step_next_of_access {s s' : State} (hrst : (currentPins s).rst = false)
    (haccess : busAccess (currentPins s) (advanceHost s) = .ok s') : ∃ t, step s = .next t := by
  rw [step_access hrst haccess]
  split
  case isFalse => exact ⟨s', rfl⟩
  case isTrue =>
    unfold coreEdge
    split
    · obtain ⟨t, ht⟩ := exists_completesTo { s' with remaining := 0 }
      exact ⟨t, runPending_eq_next.mpr ht⟩
    · exact ⟨_, rfl⟩

/-- Every step has a next state, or is refused for its access (20_memory R51). -/
theorem step_next_or_refused (s : State) :
    (∃ t, step s = .next t ∧ ((currentPins s).rst = false → (currentPins s).sel = true →
      (currentPins s).wordAccess = true)) ∨
    ((currentPins s).rst = false ∧ (currentPins s).sel = true ∧ (currentPins s).wordAccess = false ∧
      step s = .refused (.unsupportedAccess 0 true)) := by
  cases hrst : (currentPins s).rst with
  | true => exact .inl ⟨_, step_reset hrst, fun h => by cases h⟩
  | false =>
    rcases busAccess_ok_or_refused (currentPins s) (advanceHost s) with
      ⟨s', haccess⟩ | ⟨hsel, hword, haccess⟩
    · obtain ⟨t, ht⟩ := step_next_of_access hrst haccess
      refine .inl ⟨t, ht, fun _ hsel => ?_⟩
      by_contra hword
      rw [busAccess_error.mpr ⟨hsel, Bool.eq_false_of_not_eq_true hword, rfl⟩] at haccess
      cases haccess
    · exact .inr ⟨rfl, hsel, hword, step_refused hrst haccess⟩

/-! ### The host's list -/

/-- A poll and a host with nothing to do drive no reset (20_memory R50, 30_encoding R81). -/
theorem nextHost_of_reset {s : State} (hrst : (currentPins s).rst = true) :
    nextHost s = s.host.tail := by
  unfold currentPins at hrst
  unfold nextHost
  split at hrst
  · cases hrst
  · rename_i p rest hhost
    rw [hhost]
    rfl
  · cases hrst

theorem SameInputs.host {s u : State} (h : SameInputs s u) : u.host = s.host := by
  rw [h]

theorem SameInputs.werr {s u : State} (h : SameInputs s u) : u.werr = s.werr := by
  rw [h]

theorem CompletesTo.host {s t : State} (h : CompletesTo s t) : t.host = s.host := by
  obtain ⟨-, -, u, hinputs, ht⟩ := h.status_and_inputs
  rw [ht]
  exact hinputs.host

theorem CompletesTo.werr {s t : State} (h : CompletesTo s t) : t.werr = s.werr := by
  obtain ⟨-, -, u, hinputs, ht⟩ := h.status_and_inputs
  rw [ht]
  exact hinputs.werr

/-- In every cycle the host moves on by one operation, or polls again. -/
theorem step_host {s t : State} (h : step s = .next t) : t.host = nextHost s := by
  rcases step_cases h with ⟨-, rfl⟩ | ⟨-, s', haccess, hcycle⟩
  · rfl
  have hhost : s'.host = nextHost s := busAccess_host haccess
  rcases hcycle with ⟨-, rfl⟩ | ⟨-, -, rfl⟩ | ⟨-, -, -, rfl⟩ | ⟨-, -, i, -, hexec⟩
  · exact hhost
  · exact hhost
  · exact hhost
  · obtain ⟨code, u, hcompletes, hinputs, -⟩ := exec_completes i { s' with remaining := 0 }
    cases hcompletes.symm.trans hexec
    exact hinputs.host.trans hhost

theorem nextHost_mem {s : State} {op : HostOp} (h : op ∈ nextHost s) : op ∈ s.host := by
  unfold nextHost at h
  split at h
  · cases h
  · rename_i p rest hhost
    rw [hhost]
    exact List.mem_cons_of_mem _ h
  · rename_i rest hhost
    rw [hhost]
    split at h
    · exact h
    · exact List.mem_cons_of_mem _ h

/-- The pins that an accepted host drives (20_memory R51). -/
theorem currentPins_wellFormed {s : State} (h : HostOk s) : (currentPins s).wellFormed = true := by
  unfold currentPins
  split
  · rfl
  · rename_i p rest hhost
    exact List.all_eq_true.mp h (.cycle p) (by rw [hhost]; exact List.mem_cons_self)
  · rfl

/-! ### Runs of cycles with a command going on -/

theorem run_succ_of_step {s t : State} (h : step s = .next t) (k : Nat) :
    Host.Core.run Sys2Proof.core (k + 1) s = Host.Core.run Sys2Proof.core k t := by
  have hcore : Sys2Proof.core.step s = .next t := h
  simp only [Host.Core.run, hcore]

/-- `s` with so many cycles of its command to go and this answer on the pins. -/
def counted (m : Nat) (answer : Option BusResponse) (s : State) : State :=
  withRemaining m (respond answer s)

/-- A command is running, and the host's access in each of its cycles has one and the same answer
and no other effect. -/
def AnswersOnly (answer : Option BusResponse) (s : State) : Prop :=
  s.busy = true ∧ (currentPins s).rst = false ∧
    ∀ m a, busAccess (currentPins s) (advanceHost (counted m a s)) = .ok (counted m answer s)

theorem AnswersOnly.step_going {answer a : Option BusResponse} {s : State}
    (h : AnswersOnly answer s) (m : Nat) :
    step (counted (m + 2) a s) = .next (counted (m + 1) answer s) := by
  obtain ⟨hbusy, hrst, haccess⟩ := h
  rw [step_without_completion (s := counted (m + 2) a s) hrst (fun _ => Nat.le_add_left 2 m)
    (haccess (m + 2) a), show (counted (m + 2) a s).busy = true from hbusy]
  rfl

theorem AnswersOnly.step_last {answer a : Option BusResponse} {s t : State}
    (h : AnswersOnly answer s) (ht : CompletesTo (counted 0 answer s) t) :
    step (counted 1 a s) = .next t := by
  obtain ⟨hbusy, hrst, haccess⟩ := h
  rw [step_completion (s := counted 1 a s) hrst hbusy (Nat.le_refl 1) (haccess 1 a)]
  exact runPending_eq_next.mpr ht

/-- Until its last cycle a command counts its cycles down. -/
theorem AnswersOnly.run_going {answer : Option BusResponse} {s : State} (h : AnswersOnly answer s)
    {k n : Nat} (a : Option BusResponse) (h1 : 1 ≤ k) (hk : k ≤ n) :
    Host.Core.run Sys2Proof.core k (counted (n + 1) a s) =
      .next (counted (n + 1 - k) answer s) := by
  induction k generalizing n a with
  | zero => omega
  | succ k ih =>
    obtain ⟨m, rfl⟩ : ∃ m, n = m + 1 := ⟨n - 1, by omega⟩
    rw [run_succ_of_step (h.step_going m), show m + 1 + 1 - (k + 1) = m + 1 - k by omega]
    cases k with
    | zero => rfl
    | succ k => exact ih answer (Nat.le_add_left 1 k) (by omega)

/-- A run through the last cycle of a command goes on from the state that its completion gives. -/
theorem AnswersOnly.run_through {answer : Option BusResponse} {s t : State}
    (h : AnswersOnly answer s) (ht : CompletesTo (counted 0 answer s) t) (n m : Nat)
    (a : Option BusResponse) :
    Host.Core.run Sys2Proof.core (m + (n + 1)) (counted (n + 1) a s) =
      Host.Core.run Sys2Proof.core m t := by
  induction n generalizing a with
  | zero => exact run_succ_of_step (h.step_last ht) m
  | succ n ih => exact (run_succ_of_step (h.step_going n) _).trans (ih answer)

theorem answersOnly_of_no_access {s : State} (hbusy : s.busy = true) (hhost : s.host = []) :
    AnswersOnly none s := by
  have hpins : currentPins s = idlePins := by rw [currentPins, hhost]
  refine ⟨hbusy, by rw [hpins]; rfl, fun m a => ?_⟩
  have hnext : nextHost s = s.host := by rw [nextHost, hhost]
  rw [hpins, busAccess_none _ rfl, advanceHost, show nextHost (counted m a s) = s.host from hnext]
  rfl

/-- STATUS does not show the cycles to go, and the poll goes on while BUSY = 1. -/
theorem answersOnly_of_poll {s : State} {rest : List HostOp} (hbusy : s.busy = true)
    (hhost : s.host = .poll :: rest) :
    AnswersOnly (readAnswer (statusWord s)) s := by
  have hpins : currentPins s = readPins statusOffset := by rw [currentPins, hhost]
  refine ⟨hbusy, by rw [hpins]; rfl, fun m a => ?_⟩
  have hnext : nextHost s = s.host := by simp only [nextHost, hhost, hbusy, if_true]
  rw [hpins, busAccess_readStatus, advanceHost, show nextHost (counted m a s) = s.host from hnext]
  rfl

/-- The poll that reads BUSY = 0 ends the host's `wait`. -/
theorem step_poll_idle {t : State} {rest : List HostOp} (hidle : t.busy = false)
    (hhost : t.host = .poll :: rest) :
    step t = .next (respond (readAnswer (statusWord t)) { t with host := rest }) := by
  have hpins : currentPins t = readPins statusOffset := by rw [currentPins, hhost]
  have hnext : nextHost t = rest := by
    simp only [nextHost, hhost, hidle, Bool.false_eq_true, if_false]
  have haccess := busAccess_readStatus (advanceHost t)
  rw [← hpins] at haccess
  rw [step_access_idle (by rw [hpins]; rfl) hidle haccess, advanceHost, hnext]
  rfl

/-! ### A placed command, and one written to CMD -/

theorem currentPins_cycle {s : State} {p : BusCycle} {rest : List HostOp}
    (h : s.host = .cycle p :: rest) : currentPins s = p := by
  rw [currentPins, h]

theorem advanceHost_cycle {s : State} {p : BusCycle} {rest : List HostOp}
    (h : s.host = .cycle p :: rest) : advanceHost s = { s with host := rest } := by
  rw [advanceHost, nextHost, h]

theorem ofNat_word_toNat (w : Word) : BitVec.ofNat 32 (w.toNat % 2 ^ 32) = w := by
  rw [Nat.mod_eq_of_lt w.isLt, BitVec.ofNat_toNat, BitVec.setWidth_eq]

/-- An answer on the pins of a state whose host has already moved. -/
theorem answered_of_host {rest : List HostOp} (answer : Option BusResponse) {s : State}
    (h : s.host = rest) : answered rest answer s = respond answer s := by
  subst h
  rfl

/-- A cycle of the host's list that writes `v` at an aligned offset. -/
theorem busAccess_writeCycle {s : State} {off : Offset} {v : Word} {rest : List HostOp}
    (hhost : s.host = .cycle (writePins off v) :: rest) (halign : off.toNat % 4 = 0) :
    (currentPins s).rst = false ∧ busAccess (currentPins s) (advanceHost s) =
      .ok (respond writeAnswer (busWrite off.toNat v { s with host := rest })) := by
  rw [currentPins_cycle hhost, advanceHost_cycle hhost]
  exact ⟨rfl, busAccess_write _ rfl (writePins_wordAccess v halign) rfl⟩

/-- The cycle in which the host writes CMD with no command running. -/
theorem step_cmd_idle {s : State} {v : Word} {rest : List HostOp} (hidle : s.busy = false)
    (hhost : s.host = .cycle (writePins 0x000 v) :: rest) :
    step s = .next (respond writeAnswer (acceptCommand v { s with host := rest })) := by
  obtain ⟨hrst, haccess⟩ := busAccess_writeCycle hhost (by decide)
  rw [step_access_idle hrst hidle haccess]
  have hwrite := busWrite_cmd_idle (s := { s with host := rest }) v hidle
  exact congrArg (fun u => Host.Outcome.next (respond writeAnswer u)) hwrite

theorem nextLatency_cons {s : State} {n : Nat} {lats : List Nat} (h : s.latencies = n :: lats) :
    nextLatency s = n + 1 := by
  rw [nextLatency, h]

/-! ### The flags as words (10_state R24, R25, R33) -/

theorem statusWord_fields (s : State) :
    (statusWord s).getLsbD 0 = s.busy ∧ (statusWord s).getLsbD 1 = s.done ∧
      (statusWord s).extractLsb' 4 4 = s.result ∧ (statusWord s).getLsbD 8 = s.werr ∧
      (statusWord s).getLsbD 16 = s.sessValid := by
  unfold statusWord bitAt
  refine ⟨by simp, by simp, ?result, by simp, by simp⟩
  apply BitVec.eq_of_getLsbD_eq
  intro k hk
  interval_cases k <;> simp

theorem statusWord_unnamed (s : State) : statusWord s &&& 0xFFFEFE0C = 0 := by
  apply BitVec.eq_of_getLsbD_eq
  intro k hk
  unfold statusWord bitAt
  interval_cases k <;> simp

theorem irqEnWord_eq (s : State) : irqEnWord s = if s.doneIe then 1 else 0 := by
  unfold irqEnWord
  cases s.doneIe <;> decide

theorem sessCfgWord_fields (s : State) :
    (sessCfgWord s).extractLsb' 0 8 = s.sessFmt ∧ (sessCfgWord s).getLsbD 16 = s.sessValid := by
  unfold sessCfgWord bitAt
  refine ⟨?fmt, by simp⟩
  apply BitVec.eq_of_getLsbD_eq
  intro k hk
  interval_cases k <;> simp

theorem sessCfgWord_unnamed (s : State) : sessCfgWord s &&& 0xFFFEFF00 = 0 := by
  apply BitVec.eq_of_getLsbD_eq
  intro k hk
  unfold sessCfgWord bitAt
  interval_cases k <;> simp

/-! ### The obligations -/

/-- Settles O8: the access of the pins, then one cycle less to go of a running command. -/
theorem stepPerformsTheAccess : Obligations.StepPerformsTheAccess := by
  intro s hgoing moved
  refine ⟨fun hhost => ?_, fun p rest hhost hrst => ?_⟩
  · have hpins : currentPins s = idlePins := by rw [currentPins, hhost]
    have hnext : advanceHost s = { s with host := [] } := by rw [advanceHost, nextHost, hhost]
    have haccess := busAccess_none (p := idlePins) (advanceHost s) rfl
    rw [← hpins] at haccess
    rw [step_without_completion (by rw [hpins]; rfl) hgoing haccess, hnext]
    rfl
  have hpins := currentPins_cycle hhost
  have hnext := advanceHost_cycle hhost
  have hmoved : (advanceHost s).host = rest := by rw [hnext]
  rw [← hnext]
  rw [← hpins] at hrst ⊢
  refine ⟨fun hsel => ?_, fun hsel hsize halign => ?_⟩
  · rw [step_without_completion hrst hgoing (busAccess_none (advanceHost s) hsel), hnext]
    rfl
  have hword := (wordAccess_iff _).mpr ⟨hsize, halign⟩
  refine ⟨fun hwe => ?_, fun hwe => ?_⟩
  · rw [step_without_completion hrst hgoing (busAccess_write _ hsel hword hwe),
      answered_of_host _ ((busWrite_host _ _ _).trans hmoved)]
    rfl
  · rw [step_without_completion hrst hgoing (busAccess_read _ hsel hword hwe),
      answered_of_host _ ((busRead_host _ _).trans hmoved)]
    rfl

/-- Settles O10: with no access the answer is none in every cycle. -/
theorem commandCompletesAfterItsLatency : Obligations.CommandCompletesAfterItsLatency := by
  intro n s t hbusy hremaining hhost ht
  have hwait := answersOnly_of_no_access hbusy hhost
  have hs : counted (n + 1) s.response s = s := by rw [← hremaining]; rfl
  have hgoing (k : Nat) := hwait.run_going (k := k) (n := n) s.response
  have hlast := hwait.run_through ht n 0 s.response
  rw [Nat.zero_add] at hlast
  rw [hs] at hgoing hlast
  exact ⟨hgoing, hlast⟩

/-- Settles O9: the write of CMD is `acceptCommand`, and the rest is the run of O10. -/
theorem cmdWriteInACycleRunsTheCommand : Obligations.CmdWriteInACycleRunsTheCommand := by
  intro s v rest hidle hhost
  have hstep := step_cmd_idle hidle hhost
  have hpos := nextLatency_pos { s with host := rest }
  refine ⟨_, hstep, hpos, rfl, fun n lats hlats => ?_, fun t hrest ht => ?_⟩
  · exact ⟨nextLatency_cons hlats, congrArg List.tail hlats⟩
  · obtain ⟨n, hn⟩ := Nat.exists_eq_add_of_le' hpos
    rw [Nat.add_comm 1, run_succ_of_step hstep]
    obtain ⟨-, hrun⟩ := commandCompletesAfterItsLatency n _ t rfl hn hrest ht
    rw [← hrun]
    exact congrArg (fun k => Host.Core.run Sys2Proof.core k _) hn

/-- Settles O11: the poll has one answer in every cycle of the command, and ends after it. -/
theorem waitEndsAfterCompletion : Obligations.WaitEndsAfterCompletion := by
  intro n s t rest hbusy hremaining hhost ht
  have hwait := answersOnly_of_poll hbusy hhost
  have hs : counted (n + 1) s.response s = s := by rw [← hremaining]; rfl
  have hidle : t.busy = false := ht.status_and_inputs.1
  have hpoll : t.host = .poll :: rest := ht.host.trans hhost
  have hrun (m : Nat) := hwait.run_through ht n m s.response
  rw [hs] at hrun
  refine ⟨(statusWord_fields s).1.trans hbusy, (statusWord_fields t).1.trans hidle, ?_, ?_⟩
  · rw [← Nat.zero_add (n + 1), hrun 0]
    rfl
  · rw [show n + 2 = 1 + (n + 1) by omega, hrun 1, run_succ_of_step (step_poll_idle hidle hpoll)]
    rfl

/-- Settles O19: the completion follows the write, and keeps WERR. -/
theorem completionWinsOverClearingDone : Obligations.CompletionWinsOverClearingDone := by
  intro s v rest hbusy hlast hhost
  obtain ⟨hrst, haccess⟩ := busAccess_writeCycle hhost (by decide)
  rw [show busWrite (0x004 : Offset).toNat v { s with host := rest } =
    writeStatus v { s with host := rest } from busWrite_status v _] at haccess
  obtain ⟨t, ht⟩ := exists_completesTo
    (withRemaining 0 (respond writeAnswer (writeStatus v { s with host := rest })))
  obtain ⟨hidle, hdone, -⟩ := ht.status_and_inputs
  exact ⟨t, (step_completion hrst hbusy hlast haccess).trans (runPending_eq_next.mpr ht), hdone,
    hidle, ht.werr⟩

/-- Settles O23: every step has a next state or is refused for its access. -/
theorem onlyUnsupportedAccessesStopTheModel : Obligations.OnlyUnsupportedAccessesStopTheModel := by
  have hnotWord (p : BusCycle) : p.wordAccess = false ↔ p.size ≠ 2 ∨ p.addr.toNat % 4 ≠ 0 := by
    rw [← Bool.not_eq_true, wordAccess_iff, not_and_or]
  refine ⟨fun s r => ?_, fun s f => nomatch f⟩
  simp only [← hnotWord]
  rcases step_next_or_refused s with ⟨t, ht, hword⟩ | ⟨hrst, hsel, hword, ht⟩
  · rw [ht]
    constructor
    · exact fun h => by cases h
    · rintro ⟨hrst, hsel, hnot, -⟩
      rw [hword hrst hsel] at hnot
      cases hnot
  · rw [ht, Host.Outcome.refused.injEq, eq_comm]
    exact ⟨fun hr => ⟨hrst, hsel, hword, hr⟩, fun ⟨_, _, _, hr⟩ => hr⟩

/-- Settles O24: the pins of such a host are accepted, and what it has left to do is part of what it
had. -/
theorem wordAccessHostNeverStops : Obligations.WordAccessHostNeverStops := by
  intro s hok
  have hpins := currentPins_wellFormed hok
  rcases step_next_or_refused s with ⟨t, ht, -⟩ | ⟨hrst, hsel, hword, -⟩
  · refine ⟨t, ht, List.all_eq_true.mpr fun op hop => ?_⟩
    rw [step_host ht] at hop
    exact List.all_eq_true.mp hok op (nextHost_mem hop)
  · simp only [BusCycle.wellFormed, hrst, hsel, hword] at hpins
    cases hpins

/-- Settles O4: the last cycle runs PENDING, which the access of the cycle keeps. -/
theorem stepRunsTheDecodedCommand : Obligations.StepRunsTheDecodedCommand := by
  intro s s' i hbusy hlast hrst haccess hdecode
  obtain ⟨hpending, -⟩ := pending_remaining_of_busAccess hbusy haccess
  rw [step_completion hrst hbusy hlast haccess]
  exact runPending_command ((congrArg decode hpending).trans hdecode)

/-- Settles O5: the placed command is in its last cycle, in which the host makes no access. -/
theorem placedCommandRunsNext : Obligations.PlacedCommandRunsNext := by
  intro s i
  have hplaced : s.withFetchWord 32 (encode i).toNat = { s with
      pending := encode i
      busy := true
      done := false
      remaining := 1
      host := .cycle idlePins :: s.host } := by
    rw [State.withFetchWord, placeCommand, ofNat_word_toNat]
  rw [hplaced]
  exact stepRunsTheDecodedCommand _ _ i rfl (Nat.le_refl 1) rfl (busAccess_none _ rfl)
    (decode_encode i)

/-- Settles O6: the last cycle of a word that the decoder finds illegal. -/
theorem illegalWordEndsWithCmdError : Obligations.IllegalWordEndsWithCmdError := by
  have haccessed (s s' : State) (r : IllegalWord) (hbusy : s.busy = true) (hlast : s.remaining ≤ 1)
      (hrst : (currentPins s).rst = false)
      (haccess : busAccess (currentPins s) (advanceHost s) = .ok s')
      (hdecode : decode s.pending = .illegal r) :
      step s = .next (ended 15 (withRemaining 0 s')) := by
    obtain ⟨hpending, -⟩ := pending_remaining_of_busAccess hbusy haccess
    rw [step_completion hrst hbusy hlast haccess]
    exact runPending_illegal ((congrArg decode hpending).trans hdecode)
  refine ⟨haccessed, fun s r hbusy hlast hhost hdecode => ?_⟩
  obtain ⟨-, hrst, haccess⟩ := answersOnly_of_no_access hbusy hhost
  exact haccessed s _ r hbusy hlast hrst (haccess s.remaining s.response) hdecode

/-- Settles O18: the three words bit by bit. -/
theorem statusWordsReadTheirFields : Obligations.StatusWordsReadTheirFields := by
  intro s
  obtain ⟨hbusy, hdone, hresult, hwerr, hvalid⟩ := statusWord_fields s
  obtain ⟨hfmt, hactive⟩ := sessCfgWord_fields s
  exact ⟨⟨hbusy, hdone, hresult, hwerr, hvalid, statusWord_unnamed s⟩, irqEnWord_eq s,
    hfmt, hactive, sessCfgWord_unnamed s⟩

/-- Settles O21: only pins of a cycle of the host's list have `rst = 1`. -/
theorem resetCycleGivesTheResetState : Obligations.ResetCycleGivesTheResetState := by
  intro s hrst
  refine ⟨_, step_reset hrst, rfl, ?_⟩
  rw [← nextHost_of_reset hrst]
  rfl

/-- Settles O22: the fields of `State.reset`. -/
theorem resetValuesOfTheRegisters : Obligations.ResetValuesOfTheRegisters := by
  unfold Obligations.ResetValuesOfTheRegisters
  refine ⟨rfl, by decide, by decide, ?_⟩
  exact ⟨rfl, rfl, rfl, rfl, rfl, rfl, rfl, rfl, rfl, by decide, rfl, rfl, rfl, rfl, rfl, rfl, rfl,
    rfl, rfl, rfl, rfl, rfl, rfl, rfl, rfl, rfl, fun _ => rfl, rfl, rfl⟩

end Sys2Proof.Machine

/-! ## The ciphers and the keys of a join (40_aes R91, R97, 41_mask_mic R116, 43_join R157)

The two ciphers as inverse permutations of the blocks, what follows from it for the keys that a join
derives, and the obligations about GF(2^8), the MIC word and the ciphers. -/

namespace Sys2Proof.Machine

/-! ### The two ciphers -/

/-- The inverse cipher has a left inverse, so that it is one-to-one and, on the finitely many
blocks, onto: the left inverse is also its right inverse. -/
theorem aesDecrypt_aesEncrypt (k b : Block) : aesDecrypt k (aesEncrypt k b) = b := by
  have hleft : Function.LeftInverse (aesEncrypt k) (aesDecrypt k) := aesEncrypt_aesDecrypt k
  have hfinite : Finite Block := Finite.of_injective BitVec.toFin BitVec.toFin_injective
  obtain ⟨c, rfl⟩ := Finite.surjective_of_injective hleft.injective b
  rw [hleft c]

theorem aesEncrypt_injective (k : Block) : Function.Injective (aesEncrypt k) :=
  Function.LeftInverse.injective (aesDecrypt_aesEncrypt k)

/-! ### Products in GF(2^8) -/

theorem xtime_toNat : ∀ b : Byte,
    (xtime b).toNat = if b.toNat < 128 then 2 * b.toNat else (2 * b.toNat) ^^^ 0x11B := by
  decide +kernel

theorem gfMul_one_right (a : Byte) : gfMul a 1 = a := by
  rw [gfMul_eq_byteSum, byteSum_succ_left, byteSum_congr (g := fun _ => 0#8)]
  · exact BitVec.xor_zero
  · intro i hi
    have hbit : (1 : Byte).getLsbD (i + 1) = false := by
      interval_cases i <;> rfl
    rw [gfTerm, hbit]
    rfl

/-! ### The MIC word -/

theorem micWord_toNat {t : List Byte} (h : t.length = 4) : (micWord t).toNat = fromLE t := by
  have hlt := fromLE_lt t
  rw [h] at hlt
  exact Nat.mod_eq_of_lt hlt

/-! ### The keys of a join (43_join R155, R157) -/

/-- A string of 16 bytes is determined by its block. -/
theorem bytesBlock_inj {b c : List Byte} (hb : b.length = 16) (hc : c.length = 16)
    (h : bytesBlock b = bytesBlock c) : b = c := by
  rw [← blockBytes_bytesBlock hb, h, blockBytes_bytesBlock hc]

/-- A string of 3 bytes is determined by its 24-bit value. -/
theorem ofNat_fromLE_inj_three {b c : List Byte} (hb : b.length = 3) (hc : c.length = 3)
    (h : BitVec.ofNat 24 (fromLE b) = BitVec.ofNat 24 (fromLE c)) : b = c := by
  have hltb := fromLE_lt b
  have hltc := fromLE_lt c
  rw [hb] at hltb
  rw [hc] at hltc
  have hvalue := congrArg BitVec.toNat h
  simp only [BitVec.toNat_ofNat] at hvalue
  have heq : fromLE b = fromLE c := by omega
  rw [← le_fromLE b, ← le_fromLE c, heq, hb, hc]

theorem deriveInput_length (tag : Byte) {p : List Byte} (devnonce : BitVec 16) (h : 7 ≤ p.length) :
    (deriveInput tag p devnonce).length = 16 := by
  simp only [deriveInput, List.length_append, List.length_singleton, slice_length, le_length,
    zeros_length]
  omega

/-- Keys derived under different tags differ: the blocks enciphered differ in their first byte. -/
theorem deriveKey_ne {tag tag' : Byte} (key : Block) {p : List Byte} (devnonce : BitVec 16)
    (h : 7 ≤ p.length) (htag : tag ≠ tag') :
    deriveKey key tag p devnonce ≠ deriveKey key tag' p devnonce := by
  intro hkeys
  have hinput := bytesBlock_inj (deriveInput_length tag devnonce h)
    (deriveInput_length tag' devnonce h) (aesEncrypt_injective key hkeys)
  exact htag (congrArg (byteAt · 0) hinput)

/-- A derived key depends on the nonce and the network id of the plaintext only. -/
theorem deriveKey_congr (key : Block) (tag : Byte) {p q : List Byte} (devnonce : BitVec 16)
    (hp : 7 ≤ p.length) (hq : 7 ≤ q.length)
    (hnonce : BitVec.ofNat 24 (fromLE (slice p 1 4)) = BitVec.ofNat 24 (fromLE (slice q 1 4)))
    (hnetid : BitVec.ofNat 24 (fromLE (slice p 4 7)) = BitVec.ofNat 24 (fromLE (slice q 4 7))) :
    deriveKey key tag p devnonce = deriveKey key tag q devnonce := by
  have hslice14 : slice p 1 4 = slice q 1 4 :=
    ofNat_fromLE_inj_three (by rw [slice_length]; omega) (by rw [slice_length]; omega) hnonce
  have hslice47 : slice p 4 7 = slice q 4 7 :=
    ofNat_fromLE_inj_three (by rw [slice_length]; omega) (by rw [slice_length]; omega) hnetid
  rw [deriveKey, deriveKey, deriveInput, deriveInput, hslice14, hslice47]

/-- The registers in which a JOIN_ACCEPT that ended without error left its keys and their inputs. -/
theorem joinAccept_ok_keys {s t : State} (h : exec .joinAccept s = .next t) (hr : t.result = 0) :
    7 ≤ (joinPlain s).length ∧
      t.stgNwkskey = deriveKey s.appkey 0x01 (joinPlain s) s.devnonce ∧
      t.stgAppskey = deriveKey s.appkey 0x02 (joinPlain s) s.devnonce ∧
      t.jaAppnonce = BitVec.ofNat 24 (fromLE (slice (joinPlain s) 1 4)) ∧
      t.stgNetid = BitVec.ofNat 24 (fromLE (slice (joinPlain s) 4 7)) := by
  obtain ⟨hn, -, rfl⟩ := joinAccept_ok h hr
  refine ⟨?_, rfl, rfl, rfl, rfl⟩
  rw [joinPlain_length hn]
  omega

/-! ### The obligations -/

/-- Settles O27: one direction round by round, the other from it by counting. -/
theorem aesCiphersAreInverse : Obligations.AesCiphersAreInverse :=
  fun k b => ⟨aesDecrypt_aesEncrypt k b, aesEncrypt_aesDecrypt k b⟩

/-- Settles O28: the laws by sums over the bits of the second factor; the rule's values are
evaluated. -/
theorem gfMulIsTheFieldProduct : Obligations.GfMulIsTheFieldProduct :=
  ⟨xtime_toNat, fun a b c => ⟨gfMul_one_right a, gfMul_xor_right a b c, gfMul_xtime a b⟩,
    by decide, by decide, by decide⟩

/-- Settles O36: `from_le` of four bytes fits the word. -/
theorem micWordIsLittleEndian : Obligations.MicWordIsLittleEndian := by
  intro t0 t1 t2 t3
  rw [micWord_toNat rfl]
  refine ⟨?_, le_fromLE [t0, t1, t2, t3]⟩
  simp only [fromLE]
  omega

/-- Settles O46: the cipher under APPKEY is one-to-one, and the blocks it is applied to differ in
the tag only. -/
theorem joinKeysDifferAndAreDetermined : Obligations.JoinKeysDifferAndAreDetermined := by
  refine ⟨fun s t h hr => ?_, fun s s' t t' h h' hr hr' happkey hdevnonce hnonce hnetid => ?_⟩
  · obtain ⟨hlength, hnwk, happ, -⟩ := joinAccept_ok_keys h hr
    rw [hnwk, happ]
    exact deriveKey_ne s.appkey s.devnonce hlength (by decide)
  · obtain ⟨hlength, hnwk, happ, hn, hi⟩ := joinAccept_ok_keys h hr
    obtain ⟨hlength', hnwk', happ', hn', hi'⟩ := joinAccept_ok_keys h' hr'
    rw [hn, hn'] at hnonce
    rw [hi, hi'] at hnetid
    rw [hnwk, happ, hnwk', happ', ← happkey, ← hdevnonce]
    exact ⟨deriveKey_congr _ _ _ hlength hlength' hnonce hnetid,
      deriveKey_congr _ _ _ hlength hlength' hnonce hnetid⟩

end Sys2Proof.Machine

/-! ## The frame serializer (42_frame R130 to R142)

Each end of COMPOSE, DECODE, GET_ADDRESS and GET_HEADER with the condition for it, the frame that
COMPOSE makes cut into header, masked payload and MIC, and the obligations about them. -/

namespace Sys2Proof.Machine

/-! ### COMPOSE (42_frame R135) -/

theorem exec_compose_of_mtype {s : State} (hactive : s.sessValid = true)
    (hmtype : isData (arg1Mtype s) = false) : exec .compose s = .next (ended 1 s) := by
  simp only [exec, execCompose, hactive, Bool.true_eq_false, if_false, if_pos hmtype]
  rfl

/-- The three length checks have one code. -/
theorem exec_compose_of_length {s : State} (hactive : s.sessValid = true)
    (hmtype : ¬ isData (arg1Mtype s) = false)
    (hlength : sessionMaxpl s < arg0N s ∨ 15 < arg1FoptsLen s ∨
      maxFrameLen < composeLength (arg1FoptsLen s) (arg0N s)) :
    exec .compose s = .next (ended 3 s) := by
  simp only [exec, execCompose, hactive, Bool.true_eq_false, if_false, if_neg hmtype]
  by_cases hpayload : sessionMaxpl s < arg0N s
  · rw [if_pos hpayload]
    rfl
  rw [if_neg hpayload]
  by_cases hoptions : 15 < arg1FoptsLen s
  · rw [if_pos hoptions]
    rfl
  rw [if_neg hoptions, if_pos ((hlength.resolve_left hpayload).resolve_left hoptions)]
  rfl

theorem exec_compose_of_checks {s : State} (hactive : s.sessValid = true)
    (hmtype : ¬ isData (arg1Mtype s) = false) (hpayload : arg0N s ≤ sessionMaxpl s)
    (hoptions : arg1FoptsLen s ≤ 15)
    (hframe : composeLength (arg1FoptsLen s) (arg0N s) ≤ maxFrameLen) :
    exec .compose s = .next (complete .noError (storeObuf (composeFrame s)
      { s with res0 := BitVec.ofNat 32 (composeLength (arg1FoptsLen s) (arg0N s)) })) := by
  simp only [exec, execCompose, hactive, Bool.true_eq_false, if_false, if_neg hmtype,
    if_neg (Nat.not_lt.mpr hpayload), if_neg (Nat.not_lt.mpr hoptions),
    if_neg (Nat.not_lt.mpr hframe), finish_eq]

/-! ### The frame that COMPOSE makes (42_frame R130, R135) -/

/-- The header of the frame COMPOSE makes, MHDR to PORT. -/
def composeHeader (s : State) : List Byte :=
  [arg1Mtype s ++ (0 : BitVec 5)] ++ wireWord s.sessDevaddr ++
    [s.arg1.extractLsb' 12 4 ++ s.arg1.extractLsb' 0 4] ++ wireHalf (arg0Fcnt s) ++
    ibuf s 0 (arg1FoptsLen s) ++ (if arg0N s = 0 then [] else [arg1Port s])

/-- The payload that COMPOSE reads. -/
def composePlain (s : State) : List Byte :=
  ibuf s (arg1FoptsLen s) (arg1FoptsLen s + arg0N s)

/-- The payload of the frame COMPOSE makes, as it stands on the wire. -/
def composeMasked (s : State) : List Byte :=
  maskBytes (maskKey s (arg1Port s)) (dirOf (arg1Mtype s)) s.sessDevaddr (arg0Fcnt s)
    (composePlain s)

/-- The MIC of the frame COMPOSE makes. -/
def composeMic (s : State) : List Byte :=
  dataMic s.sessNwkskey (dirOf (arg1Mtype s)) s.sessDevaddr (arg0Fcnt s)
    (micMessage s.cfg.micInput (composeHeader s) (composeMasked s) (composePlain s))

@[simp] theorem composePlain_length (s : State) : (composePlain s).length = arg0N s := by
  rw [composePlain, ibuf_length, Nat.add_sub_cancel_left]

@[simp] theorem composeMasked_length (s : State) : (composeMasked s).length = arg0N s := by
  rw [composeMasked, maskBytes_length, composePlain_length]

@[simp] theorem composeMic_length (s : State) : (composeMic s).length = 4 :=
  dataMic_length _ _ _ _ _

theorem composeHeader_length (s : State) :
    (composeHeader s).length = 8 + arg1FoptsLen s + (if arg0N s = 0 then 0 else 1) := by
  simp only [composeHeader, List.length_append, List.length_singleton, wireWord_length,
    wireHalf_length, ibuf_length, apply_ite List.length, List.length_nil, Nat.sub_zero]

/-- With no payload there is nothing to mask, so the case of R135 disappears. -/
theorem composeFrame_eq (s : State) :
    composeFrame s = composeHeader s ++ composeMasked s ++ composeMic s := by
  have hfixed : [mhdrByte (arg1Mtype s)] ++ le 4 s.sessDevaddr.toNat ++
      [fctrlByte (arg1FctrlHi s) (arg1FoptsLen s)] ++ le 2 (arg0Fcnt s).toNat ++
      ibuf s 0 (arg1FoptsLen s) ++ (if arg0N s = 0 then [] else [arg1Port s]) =
      composeHeader s := by
    rw [le_four, le_two, fctrlByte, foptsLen_field]
    rfl
  by_cases hempty : arg0N s = 0
  · have hmasked : composeMasked s = [] := List.eq_nil_of_length_eq_zero (by simpa using hempty)
    rw [if_pos hempty, List.append_nil] at hfixed
    rw [composeMic, hmasked, ← hfixed]
    simp only [composeFrame, hempty, Nat.lt_irrefl, if_false, composePlain]
  · rw [if_neg hempty] at hfixed
    rw [composeMic, ← hfixed]
    simp only [composeFrame, Nat.pos_of_ne_zero hempty, if_true, composeMasked, composePlain]

/-! ### The parser's answers (42_frame R136) -/

theorem parseIbuf_of_length {s : State} (h : arg0N s < 12 ∨ 255 < arg0N s) :
    parseIbuf s = .error .lengthError := by
  rw [parseIbuf, parseFrame, if_pos (show arg0N s < 12 ∨ maxFrameLen < arg0N s from h)]

theorem parseIbuf_of_header {s : State} (h12 : 12 ≤ arg0N s) (h255 : arg0N s ≤ 255)
    (h : isData (mhdrMtype (byteOf s 0x100)) = false ∨
      arg0N s < 12 + fctrlFoptsLen (byteOf s 0x105)) :
    parseIbuf s = .error .headerError := by
  have hlength : ¬ (arg0N s < 12 ∨ maxFrameLen < arg0N s) := by
    simp only [maxFrameLen]
    omega
  rw [← byteAt_ibuf_zero s (k := 0) (by omega : 0 < arg0N s),
    ← byteAt_ibuf_zero s (k := 5) (by omega : 5 < arg0N s)] at h
  rw [parseIbuf, parseFrame, if_neg hlength]
  by_cases hmtype : isData (mhdrMtype (byteAt (ibuf s 0 (arg0N s)) 0)) = false
  · rw [if_pos hmtype]
  · rw [if_neg hmtype, if_pos (h.resolve_left hmtype)]

theorem parseIbuf_of_checks {s : State} (h12 : 12 ≤ arg0N s) (h255 : arg0N s ≤ 255)
    (hmtype : ¬ isData (mhdrMtype (byteOf s 0x100)) = false)
    (hoptions : 12 + fctrlFoptsLen (byteOf s 0x105) ≤ arg0N s) :
    parseIbuf s = .ok (headerOf (arg0N s) (ibuf s 0 (arg0N s))) := by
  have hlength : ¬ (arg0N s < 12 ∨ maxFrameLen < arg0N s) := by
    simp only [maxFrameLen]
    omega
  rw [← byteAt_ibuf_zero s (k := 0) (by omega : 0 < arg0N s)] at hmtype
  rw [← byteAt_ibuf_zero s (k := 5) (by omega : 5 < arg0N s)] at hoptions
  rw [parseIbuf, parseFrame, if_neg hlength, if_neg hmtype, if_neg (Nat.not_lt.mpr hoptions)]

/-- The commands that parse the frame in IBUF end with the parser's code, DECODE with a session
only. -/
theorem exec_of_parse_error {i : Instr} {s : State} {code : ResultCode}
    (hi : (i = .decode ∧ s.sessValid = true) ∨ i = .getAddress ∨ i = .getHeader)
    (hparse : parseIbuf s = .error code) : exec i s = .next (ended (resultBits code) s) := by
  rcases hi with ⟨rfl, hactive⟩ | rfl | rfl
  · simp only [exec, execDecode, hactive, Bool.true_eq_false, if_false, hparse]
    rfl
  · simp only [exec, execGetAddress, hparse]
    rfl
  · simp only [exec, execGetHeader, hparse]
    rfl

theorem exec_getAddress_of_parse {s : State} {h : Header} (hparse : parseIbuf s = .ok h) :
    exec .getAddress s = .next (ended 0 { s with res2 := h.addr }) := by
  simp only [exec, execGetAddress, hparse]
  rfl

theorem exec_getHeader_of_parse {s : State} {h : Header} (hparse : parseIbuf s = .ok h) :
    exec .getHeader s =
      .next (ended 0 { s with res0 := headerRes0 h, res1 := headerRes1 h, res2 := h.addr }) := by
  simp only [exec, execGetHeader, hparse]
  rfl

/-! ### The header words of a parsed frame (30_encoding R75, R76) -/

theorem headerOf_portPresent (n : Nat) (b : List Byte) :
    (headerOf n b).portPresent = decide (13 + fctrlFoptsLen (byteAt b 5) ≤ n) := by
  simp only [headerOf, decide_eq_decide]
  omega

theorem headerOf_port (n : Nat) (b : List Byte) :
    (headerOf n b).port =
      if decide (13 + fctrlFoptsLen (byteAt b 5) ≤ n) then byteAt b (8 + fctrlFoptsLen (byteAt b 5))
      else 0 := by
  rw [← headerOf_portPresent]
  rfl

theorem headerOf_res0 {n : Nat} {b : List Byte} (h12 : 12 ≤ b.length) (h255 : n ≤ 255) :
    HeaderRes0 (headerRes0 (headerOf n b)) (n - 13 - fctrlFoptsLen (byteAt b 5))
      (decide (13 + fctrlFoptsLen (byteAt b 5) ≤ n)) (byteAt b 7 ++ byteAt b 6) := by
  have hlength := headerOf_payloadLen n b
  rw [← hlength, ← headerOf_portPresent, ← (headerOf_addr_fcnt h12).2]
  exact headerRes0_fields _ (by omega)

theorem headerOf_res1 (n : Nat) (b : List Byte) :
    HeaderRes1 (headerRes1 (headerOf n b)) (byteAt b 5)
      (if decide (13 + fctrlFoptsLen (byteAt b 5) ≤ n) then
        byteAt b (8 + fctrlFoptsLen (byteAt b 5)) else 0) (byteAt b 0) := by
  rw [← headerOf_port]
  exact headerRes1_fields (headerOf n b) rfl rfl

/-! ### DECODE of a frame that parses (42_frame R137) -/

theorem exec_decode_of_mic_ne {s : State} {h : Header} (hactive : s.sessValid = true)
    (hparse : parseIbuf s = .ok h)
    (hmic : frameMic s h (ibuf s 0 (arg0N s)) ≠
      slice (ibuf s 0 (arg0N s)) (arg0N s - 4) (arg0N s)) :
    exec .decode s = .next (ended 2 s) := by
  simp only [exec, execDecode, hactive, Bool.true_eq_false, if_false, hparse, if_pos hmic]
  rfl

theorem exec_decode_of_mic_eq {s : State} {h : Header} (hactive : s.sessValid = true)
    (hparse : parseIbuf s = .ok h)
    (hmic : frameMic s h (ibuf s 0 (arg0N s)) =
      slice (ibuf s 0 (arg0N s)) (arg0N s - 4) (arg0N s)) :
    exec .decode s = .next (complete .noError (storeObuf
      (slice (ibuf s 0 (arg0N s)) 8 (8 + h.foptsLen) ++ framePlain s h (ibuf s 0 (arg0N s)))
      { s with res0 := headerRes0 h, res1 := headerRes1 h, res2 := h.addr })) := by
  simp only [exec, execDecode, hactive, Bool.true_eq_false, if_false, hparse,
    if_neg (not_not_intro hmic), finish_eq]

/-- The payload of a parsed frame as it stands on the wire: what is left between PORT and MIC. -/
theorem framePayload_headerOf {n : Nat} {b : List Byte} (hb : b.length = n)
    (h : 12 + fctrlFoptsLen (byteAt b 5) ≤ n) :
    framePayload (headerOf n b) b = slice b (9 + fctrlFoptsLen (byteAt b 5)) (n - 4) := by
  have hfl : (headerOf n b).foptsLen = fctrlFoptsLen (byteAt b 5) := rfl
  rw [framePayload, headerOf_portPresent, headerOf_payloadLen, hfl]
  by_cases hport : 13 + fctrlFoptsLen (byteAt b 5) ≤ n
  · rw [if_pos (decide_eq_true hport)]
    congr 1
    omega
  · rw [if_neg (by simpa using hport), slice_nil b (by omega)]

/-- Unmasking an empty payload gives nothing, so the case of R137 disappears. -/
theorem framePlain_eq (s : State) (h : Header) (b : List Byte) :
    framePlain s h b =
      maskBytes (maskKey s h.port) (dirOf h.mtype) h.addr h.fcnt (framePayload h b) := by
  rw [framePlain, framePayload]
  cases h.portPresent
  case false => exact (maskBytes_nil _ _ _ _).symm
  case true => rfl

theorem frameHeader_headerOf {n : Nat} {b : List Byte}
    (h : 12 + fctrlFoptsLen (byteAt b 5) ≤ n) :
    frameHeader (headerOf n b) b = slice b 0 (n - 4 - (n - 13 - fctrlFoptsLen (byteAt b 5))) := by
  have hfl : (headerOf n b).foptsLen = fctrlFoptsLen (byteAt b 5) := rfl
  rw [frameHeader, headerOf_portPresent, hfl]
  congr 1
  by_cases hport : 13 + fctrlFoptsLen (byteAt b 5) ≤ n
  · rw [if_pos (decide_eq_true hport)]
    omega
  · rw [if_neg (by simpa using hport)]
    omega

/-- What the MIC of a parsed frame covers: all bytes before it, the payload unmasked if MIC_INPUT
says so (42_frame R141). -/
theorem micMessage_headerOf (m : Config.MicInput) {n : Nat} {b : List Byte} (plain : List Byte)
    (hb : b.length = n) (h : 12 + fctrlFoptsLen (byteAt b 5) ≤ n) :
    micMessage m (frameHeader (headerOf n b) b) (framePayload (headerOf n b) b) plain =
      (match m with
        | .wire => slice b 0 (n - 4)
        | .plain => slice b 0 (n - 4 - (n - 13 - fctrlFoptsLen (byteAt b 5))) ++ plain) := by
  rw [frameHeader_headerOf h, framePayload_headerOf hb h]
  cases m
  case plain => rfl
  case wire =>
    show slice b 0 _ ++ slice b _ _ = slice b 0 (n - 4)
    by_cases hport : 13 + fctrlFoptsLen (byteAt b 5) ≤ n
    · rw [show n - 4 - (n - 13 - fctrlFoptsLen (byteAt b 5)) = 9 + fctrlFoptsLen (byteAt b 5) by
        omega]
      exact slice_append_slice b (Nat.zero_le _) (by omega)
    · rw [slice_nil b (i := 9 + fctrlFoptsLen (byteAt b 5)) (by omega), List.append_nil]
      congr 1
      omega

/-! ### The obligations on the checks and on each command -/

/-- Settles O38: the checks of COMPOSE, the ceiling of the session's format being its entry. -/
theorem composeChecksInOrder : Obligations.ComposeChecksInOrder := by
  refine fun s => ⟨exec_compose_of_no_session, fun hactive hmtype => ?_,
    fun m hactive h2 h5 hmaxpl => ?_⟩
  · exact exec_compose_of_mtype hactive (isData_eq_false hmtype)
  · have hlength := exec_compose_of_length hactive (isData_ne_false h2 h5)
    rw [sessionMaxpl_of_some hmaxpl, composeLength_eq] at hlength
    exact ⟨fun h => hlength (.inl h), fun _ h => hlength (.inr (.inl h)),
      fun _ _ h => hlength (.inr (.inr h))⟩

/-- Settles O39: the frame cut into header, masked payload and MIC, stored in OBUF. -/
theorem composeWritesTheFrame : Obligations.ComposeWritesTheFrame := by
  intro s m pl f fl t port len hactive h2 h5 hmaxpl hpayload hoptions hlen d hdr plain masked mic
  have hlength : composeLength (arg1FoptsLen s) (arg0N s) = len := composeLength_eq _ _
  have hframe : composeFrame s = hdr ++ masked ++ mic := by
    have hmsg : micMessage s.cfg.micInput (composeHeader s) (composeMasked s) (composePlain s) =
        composeHeader s ++ (match s.cfg.micInput with
          | .wire => composeMasked s
          | .plain => composePlain s) := by
      cases s.cfg.micInput <;> rfl
    rw [composeFrame_eq, composeMic, hmsg, composeMasked, show dirOf (arg1Mtype s) = d from
      dirOf_data h2 h5]
    rfl
  have hexec := exec_compose_of_checks hactive (isData_ne_false h2 h5)
    (hpayload.trans_eq (sessionMaxpl_of_some hmaxpl).symm) hoptions (hlength.trans_le hlen)
  rw [hlength, hframe] at hexec
  refine ⟨?_, _, hexec, rfl, obufHolds_storeObuf _ rfl rfl _⟩
  rw [← hframe, composeFrame_length, hlength]

/-- Settles O40: DECODE with a session, GET_ADDRESS and GET_HEADER end as the parser does. -/
theorem parseChecksInOrder : Obligations.ParseChecksInOrder := by
  refine fun s => ⟨exec_decode_of_no_session, fun i hi => ⟨fun hn => ?_, fun h12 h255 hmtype => ?_,
    fun h12 h255 _ _ hoptions => ?_⟩⟩
  · exact exec_of_parse_error hi (parseIbuf_of_length hn)
  · exact exec_of_parse_error hi (parseIbuf_of_header h12 h255 (.inl (isData_eq_false hmtype)))
  · exact exec_of_parse_error hi (parseIbuf_of_header h12 h255 (.inr hoptions))

/-- Settles O41: the parsed header and the MIC it leads to, in terms of the bytes of the frame. -/
theorem decodeVerifiesAndUnmasks : Obligations.DecodeVerifiesAndUnmasks := by
  intro s n b t fl hactive h12 h255 h2 h5 hoptions a f d hasPort port pl masked plain mic
  have hb : b.length = n := ibuf_length s 0 n
  have hbyte0 : byteAt b 0 = byteOf s 0x100 := byteAt_ibuf_zero s (by omega : 0 < n)
  have hbyte5 : byteAt b 5 = byteOf s 0x105 := byteAt_ibuf_zero s (by omega : 5 < n)
  have hparse : parseIbuf s = .ok (headerOf n b) := by
    refine parseIbuf_of_checks h12 h255 ?_ ?_
    · rw [← hbyte0]
      exact isData_ne_false h2 h5
    · rw [← hbyte5]
      exact hoptions
  obtain ⟨haddr, hfcnt⟩ := headerOf_addr_fcnt (n := n) (h12.trans_eq hb.symm)
  have hplain : framePlain s (headerOf n b) b = plain := by
    rw [framePlain_eq, framePayload_headerOf hb hoptions, haddr, hfcnt, headerOf_port,
      show dirOf (headerOf n b).mtype = d from dirOf_data h2 h5]
    rfl
  have hmic : frameMic s (headerOf n b) b = mic := by
    rw [frameMic, haddr, hfcnt, hplain, micMessage_headerOf _ _ hb hoptions,
      show dirOf (headerOf n b).mtype = d from dirOf_data h2 h5]
    rfl
  rw [← hmic]
  refine ⟨exec_decode_of_mic_ne hactive hparse, fun hverified =>
    ⟨_, exec_decode_of_mic_eq hactive hparse hverified, ?_,
      headerOf_res0 (h12.trans_eq hb.symm) h255, headerOf_res1 n b, ?_⟩⟩
  · rw [haddr]
    rfl
  · rw [← hplain]
    exact obufHolds_storeObuf _ rfl rfl _

/-- Settles O42: the parsed header, with the bytes of the frame read from IBUF. -/
theorem partialDecodesReportTheHeader : Obligations.PartialDecodesReportTheHeader := by
  refine ⟨by decide, by decide, ?_⟩
  intro s n t fl h12 h255 h2 h5 hoptions a hasPort
  have hb : (ibuf s 0 n).length = n := ibuf_length s 0 n
  have hbyte {k : Nat} (hk : k < n) : byteAt (ibuf s 0 n) k = byteOf s (0x100 + k) :=
    byteAt_ibuf_zero s hk
  have hparse : parseIbuf s = .ok (headerOf n (ibuf s 0 n)) :=
    parseIbuf_of_checks h12 h255 (isData_ne_false h2 h5) hoptions
  obtain ⟨haddr, hfcnt⟩ := headerOf_addr_fcnt (n := n) (h12.trans_eq hb.symm)
  have hres0 := headerOf_res0 (n := n) (h12.trans_eq hb.symm) h255
  have hres1 := headerOf_res1 n (ibuf s 0 n)
  rw [hbyte (k := 4) (by omega), hbyte (k := 3) (by omega), hbyte (k := 2) (by omega),
    hbyte (k := 1) (by omega)] at haddr
  rw [hbyte (k := 7) (by omega), hbyte (k := 6) (by omega), hbyte (k := 5) (by omega)] at hres0
  rw [hbyte (k := 0) (by omega), hbyte (k := 5) (by omega)] at hres1
  have hport : (if decide (13 + fl ≤ n) then byteAt (ibuf s 0 n) (8 + fl) else 0) =
      if hasPort then byteOf s (0x108 + fl) else 0 := by
    by_cases h : 13 + fl ≤ n
    · rw [hbyte (by omega), show 0x108 + fl = 0x100 + (8 + fl) by omega]
    · simp only [hasPort, decide_eq_false h, Bool.false_eq_true, if_false]
  refine ⟨?_, _, exec_getHeader_of_parse hparse, ?_, hres0, ?_⟩
  · rw [exec_getAddress_of_parse hparse, haddr]
  · rw [haddr]
    rfl
  · rw [← hport]
    exact hres1

end Sys2Proof.Machine

/-! ## DECODE of a composed frame (42_frame R142)

The frame that COMPOSE makes, taken apart by the parser, gives back the header COMPOSE wrote; under
the same keys the payload is unmasked and the MIC is the one it ends with. -/

namespace Sys2Proof.Machine

/-! ### Slices of strings put together -/

theorem slice_middle {b c d : List Byte} {i j : Nat} (hi : b.length = i) (hj : i + c.length = j) :
    slice (b ++ c ++ d) i j = c := by
  subst hi hj
  rw [List.append_assoc, slice_append_right, List.take_left]

theorem slice_append_left (b c : List Byte) (i : Nat) {j : Nat} (h : j ≤ b.length) :
    slice (b ++ c) i j = slice b i j := by
  refine bytes_ext (by simp only [slice_length, List.length_append]; omega) fun k hk => ?_
  simp only [slice_length, List.length_append] at hk
  rw [byteAt_slice _ (by omega), byteAt_slice _ (by omega), byteAt_append, if_pos (by omega)]

theorem ibuf_append_ibuf (s : State) (i j : Nat) :
    ibuf s 0 i ++ ibuf s i (i + j) = ibuf s 0 (i + j) := by
  refine bytes_ext (by simp) fun k hk => ?_
  simp only [List.length_append, ibuf_length] at hk
  rw [byteAt_append, ibuf_length, byteAt_ibuf_zero s (n := i + j) (by omega)]
  split
  · exact byteAt_ibuf_zero s (by omega)
  · rw [byteAt_ibuf s (by omega)]
    congr 1
    simp only [ibufBase]
    omega

/-! ### The header of a composed frame -/

/-- The eight bytes of the header before the options (42_frame R130). -/
def composeFixed (s : State) : List Byte :=
  [arg1Mtype s ++ (0 : BitVec 5)] ++ wireWord s.sessDevaddr ++
    [s.arg1.extractLsb' 12 4 ++ s.arg1.extractLsb' 0 4] ++ wireHalf (arg0Fcnt s)

theorem composeFixed_length (s : State) : (composeFixed s).length = 8 := rfl

/-- What stands behind the options in a composed frame. -/
def composeTail (s : State) : List Byte :=
  (if arg0N s = 0 then [] else [arg1Port s]) ++ composeMasked s ++ composeMic s

theorem composeFrame_eq_fixed (s : State) :
    composeFrame s = composeFixed s ++ ibuf s 0 (arg1FoptsLen s) ++ composeTail s := by
  simp only [composeFrame_eq, composeHeader, composeFixed, composeTail, List.append_assoc]

theorem byteAt_composeFrame_fixed (s : State) {k : Nat} (h : k < 8) :
    byteAt (composeFrame s) k = byteAt (composeFixed s) k := by
  rw [composeFrame_eq_fixed, List.append_assoc, byteAt_append,
    if_pos (by rwa [composeFixed_length])]

theorem slice_composeFrame_fixed (s : State) (i : Nat) {j : Nat} (h : j ≤ 8) :
    slice (composeFrame s) i j = slice (composeFixed s) i j := by
  rw [composeFrame_eq_fixed, List.append_assoc,
    slice_append_left _ _ _ (by rwa [composeFixed_length])]

theorem byteAt_composeFrame_port {s : State} (h : arg0N s ≠ 0) :
    byteAt (composeFrame s) (8 + arg1FoptsLen s) = arg1Port s := by
  have hlength : (composeFixed s ++ ibuf s 0 (arg1FoptsLen s)).length = 8 + arg1FoptsLen s := by
    rw [List.length_append, ibuf_length, composeFixed_length, Nat.sub_zero]
  rw [composeFrame_eq_fixed, byteAt_append, hlength, if_neg (Nat.lt_irrefl _), Nat.sub_self,
    composeTail, if_neg h]
  rfl

theorem slice_composeFrame_options (s : State) :
    slice (composeFrame s) 8 (8 + arg1FoptsLen s) = ibuf s 0 (arg1FoptsLen s) := by
  rw [composeFrame_eq_fixed]
  exact slice_middle (composeFixed_length s) (by simp)

/-- The header that DECODE finds in a composed frame. -/
def composedHeader (s : State) : Header :=
  { mhdr := arg1Mtype s ++ (0 : BitVec 5)
    mtype := arg1Mtype s
    addr := s.sessDevaddr
    fctrl := s.arg1.extractLsb' 12 4 ++ s.arg1.extractLsb' 0 4
    foptsLen := arg1FoptsLen s
    fcnt := arg0Fcnt s
    portPresent := decide (1 ≤ arg0N s)
    port := if arg0N s = 0 then 0 else arg1Port s
    payloadLen := arg0N s }

theorem ofNat_fromLE_wireHalf (f : BitVec 16) : BitVec.ofNat 16 (fromLE (wireHalf f)) = f := by
  rw [← le_two, fromLE_le]
  apply BitVec.eq_of_toNat_eq
  have hlt := f.isLt
  simp only [BitVec.toNat_ofNat]
  omega

/-- The options' length that COMPOSE writes reads back: it is at most 15. -/
theorem fctrlFoptsLen_composeFixed {s : State} (h : arg1FoptsLen s ≤ 15) :
    fctrlFoptsLen (byteAt (composeFixed s) 5) = arg1FoptsLen s := by
  have hfield : fctrlFoptsLen (byteAt (composeFixed s) 5) = (s.arg1.extractLsb' 0 4).toNat :=
    congrArg BitVec.toNat BitVec.extractLsb'_append_eq_right
  rw [hfield, ← foptsLen_field, BitVec.toNat_ofNat]
  omega

theorem headerOf_composeFrame {s : State} (h : arg1FoptsLen s ≤ 15) :
    headerOf (composeLength (arg1FoptsLen s) (arg0N s)) (composeFrame s) = composedHeader s := by
  have hoptions := fctrlFoptsLen_composeFixed h
  have hrest : composeLength (arg1FoptsLen s) (arg0N s) - 12 - arg1FoptsLen s =
      if arg0N s = 0 then 0 else 1 + arg0N s := by
    rw [composeLength_eq]
    split <;> omega
  have hmtype : mhdrMtype (byteAt (composeFixed s) 0) = arg1Mtype s :=
    BitVec.extractLsb'_append_eq_left
  have haddr : BitVec.ofNat 32 (fromLE (slice (composeFixed s) 1 5)) = s.sessDevaddr :=
    micWord_wireWord s.sessDevaddr
  have hfcnt : BitVec.ofNat 16 (fromLE (slice (composeFixed s) 6 8)) = arg0Fcnt s :=
    ofNat_fromLE_wireHalf (arg0Fcnt s)
  simp only [headerOf, byteAt_composeFrame_fixed s (show 0 < 8 by decide),
    byteAt_composeFrame_fixed s (show 5 < 8 by decide),
    slice_composeFrame_fixed s 1 (show 5 ≤ 8 by decide),
    slice_composeFrame_fixed s 6 (Nat.le_refl 8), hoptions, hrest, hmtype, haddr, hfcnt]
  by_cases hempty : arg0N s = 0
  · simp only [composedHeader, hempty, if_true]
    rfl
  · have hsome : 1 ≤ arg0N s := Nat.pos_of_ne_zero hempty
    simp only [composedHeader, if_neg hempty, byteAt_composeFrame_port hempty, hsome,
      Nat.le_add_right, decide_true, if_true, Nat.add_sub_cancel_left]
    rfl

/-! ### Payload and MIC of a composed frame -/

theorem frameHeader_composeFrame (s : State) :
    frameHeader (composedHeader s) (composeFrame s) = composeHeader s := by
  have hlength : 0 + (composeHeader s).length =
      8 + arg1FoptsLen s + (if decide (1 ≤ arg0N s) then 1 else 0) := by
    rw [composeHeader_length, Nat.zero_add]
    by_cases hempty : arg0N s = 0
    · simp [hempty]
    · simp [hempty, Nat.one_le_iff_ne_zero]
  rw [composeFrame_eq, List.append_assoc]
  exact slice_middle (b := []) rfl hlength

theorem framePayload_composeFrame (s : State) :
    framePayload (composedHeader s) (composeFrame s) = composeMasked s := by
  by_cases hempty : arg0N s = 0
  · have hmasked : composeMasked s = [] := List.eq_nil_of_length_eq_zero (by simpa using hempty)
    rw [framePayload, hmasked, composedHeader, hempty]
    rfl
  · have hheader : (composeHeader s).length = 9 + arg1FoptsLen s := by
      rw [composeHeader_length, if_neg hempty]
      omega
    rw [framePayload, show (composedHeader s).portPresent = true from
      decide_eq_true (Nat.pos_of_ne_zero hempty), if_pos rfl, composeFrame_eq]
    exact slice_middle hheader (by rw [composeMasked_length]; rfl)

/-- Under the same keys the composed payload is unmasked. -/
theorem framePlain_composeFrame {s v : State} (hnwk : v.sessNwkskey = s.sessNwkskey)
    (happ : v.sessAppskey = s.sessAppskey) :
    framePlain v (composedHeader s) (composeFrame s) = composePlain s := by
  rw [framePlain_eq, framePayload_composeFrame]
  by_cases hempty : arg0N s = 0
  · have hplain : composePlain s = [] := List.eq_nil_of_length_eq_zero (by simpa using hempty)
    have hmasked : composeMasked s = [] := List.eq_nil_of_length_eq_zero (by simpa using hempty)
    rw [hplain, hmasked, maskBytes_nil]
  · have hport : (composedHeader s).port = arg1Port s := if_neg hempty
    have hkey : maskKey v (arg1Port s) = maskKey s (arg1Port s) := by
      rw [maskKey, maskKey, hnwk, happ]
    rw [hport, hkey]
    exact maskBytes_maskBytes _ _ _ _ _

/-- Under the same keys and MIC_INPUT the MIC is the one the frame ends with. -/
theorem frameMic_composeFrame {s v : State} (hnwk : v.sessNwkskey = s.sessNwkskey)
    (happ : v.sessAppskey = s.sessAppskey) (hinput : v.cfg.micInput = s.cfg.micInput) :
    frameMic v (composedHeader s) (composeFrame s) =
      slice (composeFrame s) (composeLength (arg1FoptsLen s) (arg0N s) - 4)
        (composeLength (arg1FoptsLen s) (arg0N s)) := by
  have hlength : (composeHeader s ++ composeMasked s).length + 4 =
      composeLength (arg1FoptsLen s) (arg0N s) := by
    rw [← composeFrame_length, composeFrame_eq, List.length_append (bs := composeMic s),
      composeMic_length]
  have hmic : slice (composeHeader s ++ composeMasked s ++ composeMic s ++ [])
      (composeLength (arg1FoptsLen s) (arg0N s) - 4)
      (composeLength (arg1FoptsLen s) (arg0N s)) = composeMic s :=
    slice_middle (by omega) (by rw [composeMic_length]; omega)
  rw [frameMic, frameHeader_composeFrame, framePayload_composeFrame,
    framePlain_composeFrame hnwk happ, hnwk, hinput, composeFrame_eq, ← List.append_nil
      (composeHeader s ++ composeMasked s ++ composeMic s), hmic]
  rfl

/-! ### RES1 against ARG1 (30_encoding R73, R76) -/

/-- Bits [23:0] of RES1 of DECODE, field by field. -/
theorem HeaderRes1.low {w : Word} {fctrl port mhdr : Byte} (h : HeaderRes1 w fctrl port mhdr) :
    w.extractLsb' 0 24 = port ++ fctrl.extractLsb' 4 4 ++ 0#1 ++ mhdr.extractLsb' 5 3 ++ 0#4 ++
      fctrl.extractLsb' 0 4 := by
  obtain ⟨hoptions, hzero, hmtype, h11, hhigh, hport, -⟩ := h
  have hzero : w.extractLsb' 4 4 = 0#4 := hzero
  rw [← hoptions, ← hmtype, ← hhigh, ← hport, ← hzero]
  apply BitVec.eq_of_getLsbD_eq
  intro k hk
  simp only [BitVec.getLsbD_append, BitVec.getLsbD_extractLsb']
  interval_cases k <;> simp [h11, -BitVec.getLsbD_eq_getElem]

/-- Bits [23:0] of ARG1 on its defined bits, field by field. -/
theorem arg1_defined_bits (x : Word) :
    x.extractLsb' 0 24 &&& 0xFFF70F = x.extractLsb' 16 8 ++ x.extractLsb' 12 4 ++ 0#1 ++
      x.extractLsb' 8 3 ++ 0#4 ++ x.extractLsb' 0 4 := by
  apply BitVec.eq_of_getLsbD_eq
  intro k hk
  simp only [BitVec.getLsbD_append, BitVec.getLsbD_extractLsb', BitVec.getLsbD_and]
  interval_cases k <;> simp

/-- The same without PORT. -/
theorem arg1_defined_bits_no_port (x : Word) :
    x.extractLsb' 0 24 &&& 0x00F70F = 0#8 ++ x.extractLsb' 12 4 ++ 0#1 ++
      x.extractLsb' 8 3 ++ 0#4 ++ x.extractLsb' 0 4 := by
  apply BitVec.eq_of_getLsbD_eq
  intro k hk
  simp only [BitVec.getLsbD_append, BitVec.getLsbD_extractLsb', BitVec.getLsbD_and]
  interval_cases k <;> simp

/-- RES1 of DECODE of a composed frame gives ARG1 back. -/
theorem res1_composedHeader {s : State} (h : arg1FoptsLen s ≤ 15) :
    (headerRes1 (composedHeader s)).extractLsb' 0 24 =
      s.arg1.extractLsb' 0 24 &&& (if arg0N s = 0 then 0x00F70F else 0xFFF70F) := by
  have hoptions : (composedHeader s).foptsLen =
      ((composedHeader s).fctrl.extractLsb' 0 4).toNat := (fctrlFoptsLen_composeFixed h).symm
  have hmtype : (composedHeader s).mtype = (composedHeader s).mhdr.extractLsb' 5 3 :=
    BitVec.extractLsb'_append_eq_left.symm
  rw [(headerRes1_fields _ hoptions hmtype).low, ← hmtype]
  simp only [composedHeader, BitVec.extractLsb'_append_eq_left, BitVec.extractLsb'_append_eq_right]
  split
  · exact (arg1_defined_bits_no_port s.arg1).symm
  · exact (arg1_defined_bits s.arg1).symm

/-! ### The obligation -/

/-- Byte `k` of OBUF after a command that stored more than `k` bytes in it. -/
theorem byteOf_obuf_of_stored (code : ResultCode) (s : State) {b : List Byte} {k : Nat}
    (hk : k < b.length) : byteOf (complete code (storeObuf b s)) (0x200 + k) = byteAt b k := by
  rw [byteOf_complete, byteOf_storeObuf, if_pos (by simp only [obufBase]; omega)]
  exact congrArg (byteAt b) (Nat.add_sub_cancel_left 0x200 k)

/-- The bytes of a composed frame, copied to IBUF, are the frame that DECODE parses. -/
theorem ibuf_of_composed {s v : State} {n : Nat}
    (hn : n = composeLength (arg1FoptsLen s) (arg0N s))
    (hcopied : ∀ k, k < n → byteOf v (0x100 + k) = byteAt (composeFrame s) k) :
    ibuf v 0 n = composeFrame s := by
  refine bytes_ext (by rw [ibuf_length, composeFrame_length, hn, Nat.sub_zero]) fun k hk => ?_
  rw [ibuf_length, Nat.sub_zero] at hk
  rw [byteAt_ibuf_zero v hk, hcopied k hk]

/-- DECODE of a composed frame under the same keys and MIC_INPUT (42_frame R142). -/
theorem exec_decode_of_composed {s v : State} (hmtype : isData (arg1Mtype s) = true)
    (hoptions : arg1FoptsLen s ≤ 15) (hlength : composeLength (arg1FoptsLen s) (arg0N s) ≤ 255)
    (hn : arg0N v = composeLength (arg1FoptsLen s) (arg0N s))
    (hframe : ibuf v 0 (arg0N v) = composeFrame s) (hactive : v.sessValid = true)
    (hnwk : v.sessNwkskey = s.sessNwkskey) (happ : v.sessAppskey = s.sessAppskey)
    (hinput : v.cfg.micInput = s.cfg.micInput) :
    exec .decode v = .next (complete .noError (storeObuf (ibuf s 0 (arg1FoptsLen s + arg0N s))
      { v with
        res0 := headerRes0 (composedHeader s)
        res1 := headerRes1 (composedHeader s)
        res2 := s.sessDevaddr })) := by
  have h12 : 12 ≤ arg0N v := by
    rw [hn, composeLength]
    omega
  have hbyte {k : Nat} (hk : k < 8) : byteOf v (0x100 + k) = byteAt (composeFixed s) k := by
    rw [← byteAt_ibuf_zero v (by omega : k < arg0N v), hframe, byteAt_composeFrame_fixed s hk]
  have hmtype' : ¬ isData (mhdrMtype (byteOf v 0x100)) = false := by
    rw [hbyte (k := 0) (by decide), show mhdrMtype (byteAt (composeFixed s) 0) = arg1Mtype s from
      BitVec.extractLsb'_append_eq_left, hmtype]
    decide
  have hoptions' : 12 + fctrlFoptsLen (byteOf v 0x105) ≤ arg0N v := by
    rw [hbyte (k := 5) (by decide), fctrlFoptsLen_composeFixed hoptions, hn, composeLength]
    omega
  have hparse := parseIbuf_of_checks h12 (hn.trans_le hlength) hmtype' hoptions'
  rw [hframe, hn, headerOf_composeFrame hoptions] at hparse
  have hmic := frameMic_composeFrame hnwk happ hinput
  rw [← hframe, ← hn] at hmic
  rw [exec_decode_of_mic_eq hactive hparse hmic, hframe, framePlain_composeFrame hnwk happ,
    composePlain, ← ibuf_append_ibuf, ← slice_composeFrame_options]
  rfl

/-- Settles O43: DECODE finds the header that COMPOSE wrote, and its words give the arguments
back. -/
theorem decodeOfComposeRoundTrips : Obligations.DecodeOfComposeRoundTrips := by
  intro s u v pl fl hcompose hr hactive hnwk happ hinput hn hcopied
  obtain ⟨-, hmtype, -, hoptions, hlength, rfl⟩ := compose_ok hcompose hr
  have hres0 : (BitVec.ofNat 32 (composeLength (arg1FoptsLen s) (arg0N s))).toNat =
      composeLength (arg1FoptsLen s) (arg0N s) := by
    rw [BitVec.toNat_ofNat]
    omega
  have hn : arg0N v = composeLength (arg1FoptsLen s) (arg0N s) := by
    refine (congrArg BitVec.toNat hn).trans ?_
    rw [BitVec.extractLsb'_toNat, Nat.shiftRight_zero]
    refine (congrArg (· % 2 ^ 9) hres0).trans ?_
    omega
  have hframe : ibuf v 0 (arg0N v) = composeFrame s := by
    refine ibuf_of_composed hn fun k hk => ?_
    rw [hn] at hk
    rw [hcopied k (hk.trans_eq hres0.symm)]
    exact byteOf_obuf_of_stored _ _ (hk.trans_eq (composeFrame_length s).symm)
  have hexec := exec_decode_of_composed hmtype hoptions hlength hn hframe hactive hnwk happ hinput
  have hpayload : (composedHeader s).payloadLen < 512 := (s.arg0.extractLsb' 0 9).isLt
  obtain ⟨hlen, -, hport, -, hfcnt⟩ := headerRes0_fields (composedHeader s) hpayload
  refine ⟨_, hexec, rfl, fun k hk => ?_, hlen, hfcnt, hport, res1_composedHeader hoptions, rfl⟩
  rw [byteOf_obuf_of_stored _ _ (by rw [ibuf_length]; exact hk)]
  exact byteAt_ibuf_zero s hk

end Sys2Proof.Machine

/-! ## The whole machine (10_state R41 to R49, 20_memory R64, 60_exceptions R190 to R195)

Which buffer bytes a command reads and writes, what every kind of cycle keeps, the invariant part by
part, and the obligations about every command and every step. -/

namespace Sys2Proof.Machine

/-! ### The completion of a command (60_exceptions R192, R195) -/

theorem SameInputs.pending {s u : State} (h : SameInputs s u) : u.pending = s.pending := by
  rw [h]

theorem SameInputs.fill {s u : State} (h : SameInputs s u) : u.fill = s.fill := by
  rw [h]

theorem SameInputs.cfg {s u : State} (h : SameInputs s u) : u.cfg = s.cfg := by
  rw [h]

theorem SameInputs.remaining {s u : State} (h : SameInputs s u) : u.remaining = s.remaining := by
  rw [h]

theorem resultBits_legal (code : ResultCode) :
    resultBits code = 0 ∨ resultBits code = 1 ∨ resultBits code = 2 ∨ resultBits code = 3 ∨
      resultBits code = 4 ∨ resultBits code = 15 := by
  cases code <;> decide

theorem resultLegal_complete (code : ResultCode) (s : State) : ResultLegal (complete code s) :=
  resultBits_legal code

theorem resultBits_ne_cmdError {code : ResultCode} (h : code ≠ .cmdError) :
    resultBits code ≠ 15 := by
  cases code <;> first | decide | exact absurd rfl h

/-- A command that ends with an error completes the state before it. -/
theorem exec_error {i : Instr} {s t : State} (h : exec i s = .next t) (hr : t.result ≠ 0) :
    t = ended t.result s := by
  obtain ⟨code, u, hexec, -, hu, -⟩ := exec_completes i s
  cases hexec.symm.trans h
  rcases hu with rfl | rfl
  · exact absurd rfl hr
  · rfl

/-- A command changes no input register and no field of the model's own. -/
theorem exec_sameInputs {i : Instr} {s t : State} (h : exec i s = .next t) :
    ∃ u, SameInputs s u ∧ t = ended t.result u := by
  obtain ⟨code, u, hexec, hinputs, -⟩ := exec_completes i s
  cases hexec.symm.trans h
  exact ⟨u, hinputs, rfl⟩

theorem exec_fill {i : Instr} {s t : State} (h : exec i s = .next t) : t.fill = s.fill := by
  obtain ⟨u, hinputs, ht⟩ := exec_sameInputs h
  rw [ht]
  exact hinputs.fill

theorem exec_cfg {i : Instr} {s t : State} (h : exec i s = .next t) : t.cfg = s.cfg := by
  obtain ⟨u, hinputs, ht⟩ := exec_sameInputs h
  rw [ht]
  exact hinputs.cfg

/-! ### What a command writes into the buffers (10_state R41) -/

/-- The commands that write OBUF (10_state R41). -/
def writesObuf : Instr → Bool
  | .compose | .decode | .joinReq | .joinAccept => true
  | _ => false

/-- The commands that 10_state R41 does not name write no buffer. -/
theorem exec_mem {i : Instr} {s t : State} (h : exec i s = .next t) (hi : writesObuf i = false) :
    t.mem = s.mem := by
  suffices hkeep : ∃ u, exec i s = .next u ∧ u.mem = s.mem by
    obtain ⟨u, hu, hmem⟩ := hkeep
    cases hu.symm.trans h
    exact hmem
  cases i with
  | aesEnc | aesDec | sessionClear | getDirection | ackRequest => exact ⟨_, rfl, rfl⟩
  | mask | cmac | dataMic | maxPayload | getAddress | getHeader | sessionLoad =>
    exact ⟨_, rfl, by split <;> rfl⟩
  | compose | decode | joinReq | joinAccept => cases hi

/-- A DECODE that ends without error: its checks passed, and this is its whole effect. -/
theorem decode_ok {s t : State} (h : exec .decode s = .next t) (hr : t.result = 0) :
    arg0N s ≤ 255 ∧ 12 + fctrlFoptsLen (byteAt (ibuf s 0 (arg0N s)) 5) ≤ arg0N s ∧
      t = complete .noError (storeObuf
        (slice (ibuf s 0 (arg0N s)) 8 (8 + (headerOf (arg0N s) (ibuf s 0 (arg0N s))).foptsLen) ++
          framePlain s (headerOf (arg0N s) (ibuf s 0 (arg0N s))) (ibuf s 0 (arg0N s)))
        { s with
          res0 := headerRes0 (headerOf (arg0N s) (ibuf s 0 (arg0N s)))
          res1 := headerRes1 (headerOf (arg0N s) (ibuf s 0 (arg0N s)))
          res2 := (headerOf (arg0N s) (ibuf s 0 (arg0N s))).addr }) := by
  by_cases hinactive : s.sessValid = false
  · cases (exec_decode_of_no_session hinactive).symm.trans h
    cases hr
  have hactive := Bool.eq_true_of_not_eq_false hinactive
  rcases parseFrame_cases (arg0N s) (ibuf s 0 (arg0N s)) with
    ⟨-, hparse⟩ | ⟨-, -, -, hparse⟩ | ⟨-, h255, -, hoptions, hparse⟩
  · cases (exec_of_parse_error (.inl ⟨rfl, hactive⟩) hparse).symm.trans h
    cases hr
  · cases (exec_of_parse_error (.inl ⟨rfl, hactive⟩) hparse).symm.trans h
    cases hr
  · by_cases hmic : frameMic s (headerOf (arg0N s) (ibuf s 0 (arg0N s))) (ibuf s 0 (arg0N s)) =
        slice (ibuf s 0 (arg0N s)) (arg0N s - 4) (arg0N s)
    · cases (exec_decode_of_mic_eq hactive hparse hmic).symm.trans h
      exact ⟨h255, hoptions, rfl⟩
    · cases (exec_decode_of_mic_ne hactive hparse hmic).symm.trans h
      cases hr

/-- `t` has the buffers of `s` with `b` written from OBUF[0] on. -/
def StoresObuf (b : List Byte) (s t : State) : Prop := t.mem = s.mem.writeBytes obufBase b

theorem storesObuf_complete (code : ResultCode) (b : List Byte) {s u : State} (h : u.mem = s.mem) :
    StoresObuf b s (complete code (storeObuf b u)) := by
  rw [StoresObuf, complete_mem, storeObuf_mem, h]

/-- Without an error a command writes one string of at most 255 bytes, of the length it states. -/
theorem exec_ok_storesObuf {i : Instr} {s t : State} (h : exec i s = .next t) (hr : t.result = 0) :
    ∃ b, StoresObuf b s t ∧ b.length = obufWritten i t ∧ b.length ≤ 255 := by
  have hnone (hmem : t.mem = s.mem) (hwritten : obufWritten i t = 0) :
      ∃ b, StoresObuf b s t ∧ b.length = obufWritten i t ∧ b.length ≤ 255 :=
    ⟨[], hmem, hwritten.symm, Nat.zero_le 255⟩
  cases i with
  | aesEnc | aesDec | mask | cmac | dataMic | getAddress | getHeader | sessionLoad | sessionClear
  | getDirection | ackRequest | maxPayload => exact hnone (exec_mem h rfl) rfl
  | compose =>
    obtain ⟨-, -, -, -, hlength, rfl⟩ := compose_ok h hr
    refine ⟨_, storesObuf_complete _ _ rfl, ?_, (composeFrame_length s).trans_le hlength⟩
    rw [composeFrame_length, obufWritten, complete_res0, storeObuf_res0, BitVec.toNat_ofNat]
    omega
  | decode =>
    obtain ⟨h255, hoptions, rfl⟩ := decode_ok h hr
    have hb : (ibuf s 0 (arg0N s)).length = arg0N s := ibuf_length s 0 (arg0N s)
    have hlength := decoded_length (s := s) hb hoptions
    have hpayload := headerOf_payloadLen (arg0N s) (ibuf s 0 (arg0N s))
    obtain ⟨hres0, -⟩ := headerOf_res0 (n := arg0N s) (b := ibuf s 0 (arg0N s)) (by omega) h255
    obtain ⟨hres1, -⟩ := headerOf_res1 (arg0N s) (ibuf s 0 (arg0N s))
    have hfl : (headerOf (arg0N s) (ibuf s 0 (arg0N s))).foptsLen =
        fctrlFoptsLen (byteAt (ibuf s 0 (arg0N s)) 5) := rfl
    refine ⟨_, storesObuf_complete _ _ rfl, ?_, by omega⟩
    rw [hlength, hpayload, hfl]
    exact congrArg₂ (· + ·) (congrArg BitVec.toNat hres1).symm hres0.symm
  | joinReq =>
    cases (exec_joinReq s).symm.trans h
    have hlength := length_joinRequest s
    refine ⟨_, storesObuf_complete _ _ rfl, ?_, by omega⟩
    rw [hlength, obufWritten, complete_res0, storeObuf_res0]
    rfl
  | joinAccept =>
    obtain ⟨hn, -, rfl⟩ := joinAccept_ok h hr
    have hlength := joinPlain_length hn
    refine ⟨joinPlain s, storesObuf_complete _ _ rfl, ?_, by omega⟩
    rw [hlength, obufWritten, complete_res0, joinOutputs, storeObuf_res0, BitVec.toNat_ofNat]
    omega

/-- Every command, whatever its end, writes at most one string of at most 255 bytes, from OBUF[0]
on. -/
theorem exec_storesObuf {i : Instr} {s t : State} (h : exec i s = .next t) :
    ∃ b, StoresObuf b s t ∧ b.length ≤ obufWritten i t ∧ b.length ≤ 255 ∧
      (t.result ≠ 0 → t.mem = s.mem) := by
  by_cases hr : t.result = 0
  · obtain ⟨b, hb, hlength, h255⟩ := exec_ok_storesObuf h hr
    exact ⟨b, hb, hlength.le, h255, fun hne => absurd hr hne⟩
  · have hmem : t.mem = s.mem := by
      rw [exec_error h hr]
      rfl
    exact ⟨[], hmem, Nat.zero_le _, Nat.zero_le _, fun _ => hmem⟩

theorem StoresObuf.byteOf {b : List Byte} {s t : State} (h : StoresObuf b s t)
    (hfill : t.fill = s.fill) (a : Nat) : byteOf t a =
      if obufBase ≤ a ∧ a < obufBase + b.length then byteAt b (a - obufBase) else byteOf s a := by
  rw [← byteOf_storeObuf]
  exact byteOf_congr (t := t) (s := storeObuf b s) h hfill a

/-- No command writes IBUF (10_state R41). -/
theorem exec_byteOf_ibuf {i : Instr} {s t : State} (h : exec i s = .next t) {a : Nat}
    (ha : a ≤ 0x1FF) : byteOf t a = byteOf s a := by
  obtain ⟨b, hb, -⟩ := exec_storesObuf h
  rw [hb.byteOf (exec_fill h), if_neg (by simp only [obufBase]; omega)]

/-! ### What a command reads of the buffers (20_memory R64) -/

/-- `s` with other contents of the buffers. -/
def withMem (m : Memory) (s : State) : State := { s with mem := m }

/-- With the buffers `m` instead of its own the command makes the same registers and writes the same
string. -/
def SameEffect (i : Instr) (m : Memory) (s : State) : Prop :=
  ∃ (t : State) (b : List Byte), exec i s = .next t ∧ StoresObuf b s t ∧
    exec i (withMem m s) = .next (withMem (m.writeBytes obufBase b) t)

section
variable {i : Instr} {m : Memory} {s : State}

theorem sameEffect_of_ended {code : BitVec 4} (h : exec i s = .next (ended code s))
    (hm : exec i (withMem m s) = .next (ended code (withMem m s))) : SameEffect i m s :=
  ⟨_, [], h, rfl, hm⟩

theorem sameEffect_of_registers {t : State} (h : exec i s = .next t) (ht : t.mem = s.mem)
    (hm : exec i (withMem m s) = .next (withMem m t)) : SameEffect i m s :=
  ⟨t, [], h, ht, hm⟩

theorem sameEffect_of_store {code : ResultCode} {b : List Byte} {u : State}
    (h : exec i s = .next (complete code (storeObuf b u))) (hu : u.mem = s.mem)
    (hm : exec i (withMem m s) = .next (complete code (storeObuf b (withMem m u)))) :
    SameEffect i m s :=
  ⟨_, b, h, storesObuf_complete code b hu, hm⟩

theorem ibuf_withMem {n : Nat}
    (hread : ∀ a, 0x100 ≤ a → a < 0x100 + n → byteOf (withMem m s) a = byteOf s a) {i j : Nat}
    (hij : i ≤ j) (h : j ≤ n) : ibuf (withMem m s) i j = ibuf s i j := by
  refine bytesFrom_congr fun a h1 h2 => hread a ?_ ?_ <;> simp only [ibufBase] at h1 h2 <;> omega

theorem composeFrame_withMem
    (hoptions : ibuf (withMem m s) 0 (arg1FoptsLen s) = ibuf s 0 (arg1FoptsLen s))
    (hplain : composePlain (withMem m s) = composePlain s) :
    composeFrame (withMem m s) = composeFrame s := by
  have hheader : composeHeader (withMem m s) = composeHeader s :=
    congrArg (fun o => composeFixed s ++ o ++ if arg0N s = 0 then [] else [arg1Port s]) hoptions
  have hmasked : composeMasked (withMem m s) = composeMasked s :=
    congrArg (maskBytes (maskKey s (arg1Port s)) (dirOf (arg1Mtype s)) s.sessDevaddr (arg0Fcnt s))
      hplain
  have hmic : composeMic (withMem m s) = composeMic s := by
    rw [composeMic, hheader, hmasked, hplain]
    rfl
  rw [composeFrame_eq, composeFrame_eq, hheader, hmasked, hmic]

theorem compose_sameEffect
    (hoptions : ibuf (withMem m s) 0 (arg1FoptsLen s) = ibuf s 0 (arg1FoptsLen s))
    (hplain : composePlain (withMem m s) = composePlain s) : SameEffect .compose m s := by
  by_cases hinactive : s.sessValid = false
  · exact sameEffect_of_ended (exec_compose_of_no_session hinactive)
      (exec_compose_of_no_session (s := withMem m s) hinactive)
  have hactive := Bool.eq_true_of_not_eq_false hinactive
  by_cases hmtype : isData (arg1Mtype s) = false
  · exact sameEffect_of_ended (exec_compose_of_mtype hactive hmtype)
      (exec_compose_of_mtype (s := withMem m s) hactive hmtype)
  by_cases hlength : sessionMaxpl s < arg0N s ∨ 15 < arg1FoptsLen s ∨
      maxFrameLen < composeLength (arg1FoptsLen s) (arg0N s)
  · exact sameEffect_of_ended (exec_compose_of_length hactive hmtype hlength)
      (exec_compose_of_length (s := withMem m s) hactive hmtype hlength)
  simp only [not_or, Nat.not_lt] at hlength
  obtain ⟨hpayload, hopts, hframe⟩ := hlength
  have hm := exec_compose_of_checks (s := withMem m s) hactive hmtype hpayload hopts hframe
  rw [composeFrame_withMem hoptions hplain] at hm
  exact sameEffect_of_store (exec_compose_of_checks hactive hmtype hpayload hopts hframe) rfl hm

theorem decode_sameEffect (hframe : ibuf (withMem m s) 0 (arg0N s) = ibuf s 0 (arg0N s)) :
    SameEffect .decode m s := by
  have hparse : parseIbuf (withMem m s) = parseIbuf s := congrArg (parseFrame (arg0N s)) hframe
  by_cases hinactive : s.sessValid = false
  · exact sameEffect_of_ended (exec_decode_of_no_session hinactive)
      (exec_decode_of_no_session (s := withMem m s) hinactive)
  have hactive := Bool.eq_true_of_not_eq_false hinactive
  cases h : parseIbuf s with
  | error code =>
    exact sameEffect_of_ended (exec_of_parse_error (.inl ⟨rfl, hactive⟩) h)
      (exec_of_parse_error (s := withMem m s) (.inl ⟨rfl, hactive⟩) (hparse.trans h))
  | ok hdr =>
    by_cases hmic : frameMic s hdr (ibuf s 0 (arg0N s)) =
        slice (ibuf s 0 (arg0N s)) (arg0N s - 4) (arg0N s)
    · have hm := exec_decode_of_mic_eq (s := withMem m s) hactive (hparse.trans h)
        ((congrArg (frameMic s hdr) hframe).trans
          (hmic.trans (congrArg (slice · (arg0N s - 4) (arg0N s)) hframe.symm)))
      rw [show ibuf (withMem m s) 0 (arg0N (withMem m s)) = ibuf s 0 (arg0N s) from hframe] at hm
      exact sameEffect_of_store (exec_decode_of_mic_eq hactive h hmic) rfl hm
    · refine sameEffect_of_ended (exec_decode_of_mic_ne hactive h hmic)
        (exec_decode_of_mic_ne (s := withMem m s) hactive (hparse.trans h) ?_)
      rw [show ibuf (withMem m s) 0 (arg0N (withMem m s)) = ibuf s 0 (arg0N s) from hframe]
      exact hmic

theorem parser_sameEffect (hi : i = .getAddress ∨ i = .getHeader)
    (hframe : ibuf (withMem m s) 0 (arg0N s) = ibuf s 0 (arg0N s)) : SameEffect i m s := by
  have hparse : parseIbuf (withMem m s) = parseIbuf s := congrArg (parseFrame (arg0N s)) hframe
  cases h : parseIbuf s with
  | error code =>
    exact sameEffect_of_ended (exec_of_parse_error (.inr hi) h)
      (exec_of_parse_error (.inr hi) (hparse.trans h))
  | ok hdr =>
    rcases hi with rfl | rfl
    · exact sameEffect_of_registers (exec_getAddress_of_parse h) rfl
        (exec_getAddress_of_parse (hparse.trans h))
    · exact sameEffect_of_registers (exec_getHeader_of_parse h) rfl
        (exec_getHeader_of_parse (hparse.trans h))

theorem joinAccept_sameEffect (hplain : joinPlain (withMem m s) = joinPlain s) :
    SameEffect .joinAccept m s := by
  by_cases hn : arg0N s = 17 ∨ arg0N s = 33
  case neg =>
    obtain ⟨h17, h33⟩ := not_or.mp hn
    exact sameEffect_of_ended (exec_joinAccept_of_length h17 h33)
      (exec_joinAccept_of_length (s := withMem m s) h17 h33)
  by_cases hmic : cmacMic s.appkey (slice (joinPlain s) 0 (arg0N s - 4)) =
      slice (joinPlain s) (arg0N s - 4) (arg0N s)
  · have hm := exec_joinAccept_of_mic_eq (s := withMem m s) hn (by rw [hplain]; exact hmic)
    rw [hplain] at hm
    exact sameEffect_of_store (exec_joinAccept_of_mic_eq hn hmic) rfl hm
  · exact sameEffect_of_ended (exec_joinAccept_of_mic_ne hn hmic)
      (exec_joinAccept_of_mic_ne (s := withMem m s) hn (by rw [hplain]; exact hmic))

/-- A command has the same effect with any buffers that agree on the bytes it reads. -/
theorem exec_sameEffect (i : Instr) (hread : ∀ a, 0x100 ≤ a → a < 0x100 + ibufRead i s →
    byteOf (withMem m s) a = byteOf s a) : SameEffect i m s := by
  cases i with
  | aesEnc => exact sameEffect_of_registers (exec_aesEnc s) rfl rfl
  | aesDec => exact sameEffect_of_registers (exec_aesDec s) rfl rfl
  | getDirection => exact sameEffect_of_registers (exec_getDirection s) rfl rfl
  | ackRequest => exact sameEffect_of_registers (exec_ackRequest s) rfl rfl
  | sessionClear => exact sameEffect_of_registers (exec_sessionClear s) rfl rfl
  | joinReq => exact sameEffect_of_store (exec_joinReq s) rfl (exec_joinReq (withMem m s))
  | mask =>
    by_cases h : 255 < arg0N s
    · exact sameEffect_of_ended (exec_mask_of_lt h) (exec_mask_of_lt (s := withMem m s) h)
    · have h := Nat.le_of_not_lt h
      exact sameEffect_of_registers (exec_mask_of_le h) rfl (exec_mask_of_le (s := withMem m s) h)
  | cmac =>
    have hmessage : ibuf (withMem m s) 0 (arg0N s) = ibuf s 0 (arg0N s) :=
      ibuf_withMem hread (Nat.zero_le _) (Nat.le_refl _)
    by_cases h : 256 < arg0N s
    · exact sameEffect_of_ended (exec_cmac_of_lt h) (exec_cmac_of_lt (s := withMem m s) h)
    · have h := Nat.le_of_not_lt h
      have hm := exec_cmac_of_le (s := withMem m s) h
      rw [show ibuf (withMem m s) 0 (arg0N (withMem m s)) = ibuf s 0 (arg0N s) from hmessage] at hm
      exact sameEffect_of_registers (exec_cmac_of_le h) rfl hm
  | dataMic =>
    have hmessage : ibuf (withMem m s) 0 (arg0N s) = ibuf s 0 (arg0N s) :=
      ibuf_withMem hread (Nat.zero_le _) (Nat.le_refl _)
    by_cases h : 255 < arg0N s
    · exact sameEffect_of_ended (exec_dataMic_of_lt h) (exec_dataMic_of_lt (s := withMem m s) h)
    · have h := Nat.le_of_not_lt h
      have hm := exec_dataMic_of_le (s := withMem m s) h
      rw [show ibuf (withMem m s) 0 (arg0N (withMem m s)) = ibuf s 0 (arg0N s) from hmessage] at hm
      exact sameEffect_of_registers (exec_dataMic_of_le h) rfl hm
  | compose =>
    exact compose_sameEffect (ibuf_withMem hread (Nat.zero_le _) (Nat.le_add_right _ _))
      (ibuf_withMem hread (Nat.le_add_right _ _) (Nat.le_refl _))
  | decode => exact decode_sameEffect (ibuf_withMem hread (Nat.zero_le _) (Nat.le_refl _))
  | getAddress =>
    exact parser_sameEffect (.inl rfl) (ibuf_withMem hread (Nat.zero_le _) (Nat.le_refl _))
  | getHeader =>
    exact parser_sameEffect (.inr rfl) (ibuf_withMem hread (Nat.zero_le _) (Nat.le_refl _))
  | joinAccept =>
    exact joinAccept_sameEffect (congrArg (unwrapJoinAccept s.cfg.jaUnwrap s.appkey (arg0N s))
      (ibuf_withMem hread (Nat.zero_le _) (Nat.le_refl _)))
  | sessionLoad =>
    cases h : maxplOf s.cfg s.stgFmt with
    | none =>
      exact sameEffect_of_ended (exec_sessionLoad_of_unsupported h)
        (exec_sessionLoad_of_unsupported (s := withMem m s) h)
    | some n =>
      exact sameEffect_of_registers (exec_sessionLoad_of_supported h) rfl
        (exec_sessionLoad_of_supported (s := withMem m s) h)
  | maxPayload =>
    by_cases h : s.sessValid = false
    · exact sameEffect_of_ended (exec_maxPayload_of_no_session h)
        (exec_maxPayload_of_no_session (s := withMem m s) h)
    · have h := Bool.eq_true_of_not_eq_false h
      exact sameEffect_of_registers (exec_maxPayload_of_session h) rfl
        (exec_maxPayload_of_session (s := withMem m s) h)

end

end Sys2Proof.Machine

/-! ## Every step (10_state R43, R48, 60_exceptions R190, R192)

What a step keeps: the operands of a running command, and the invariant part by part, each from what
a reset, an access, a completion and a command do to it; and the obligations about every command and
every step. -/

namespace Sys2Proof.Machine

/-! ### Properties kept by every kind of cycle -/

/-- A property that holds after a reset cycle, that the access of a cycle and a command keep, and
that neither the count of cycles nor CMD_ERROR can break, is kept by every step. -/
theorem step_keeps {P : State → Prop} {s t : State} (hreset : P (resetCycle (advanceHost s)))
    (haccess : ∀ s', busAccess (currentPins s) (advanceHost s) = .ok s' → P s')
    (hcount : ∀ m u, P u → P (withRemaining m u)) (hillegal : ∀ u, P u → P (complete .cmdError u))
    (hexec : ∀ i u u', P u → exec i u = .next u' → P u') (h : step s = .next t) : P t := by
  rcases step_cases h with ⟨-, rfl⟩ | ⟨-, s', hs', hcycle⟩
  · exact hreset
  have hP := haccess s' hs'
  rcases hcycle with ⟨-, rfl⟩ | ⟨-, -, rfl⟩ | ⟨-, -, -, rfl⟩ | ⟨-, -, i, -, hexec'⟩
  · exact hP
  · exact hcount _ _ hP
  · exact hillegal _ (hcount 0 _ hP)
  · exact hexec i _ _ (hcount 0 _ hP) hexec'

/-- The registers that no access of the host writes and the claims about the machine speak of
(10_state R22, R39). -/
def State.hostReadOnly (s : State) : BitVec 4 × Config.Params × Word × Block :=
  (s.result, s.cfg, s.jaInfo, s.jaCflist)

theorem hostReadOnly_eq_iff {s t : State} : t.hostReadOnly = s.hostReadOnly ↔
    t.result = s.result ∧ t.cfg = s.cfg ∧ t.jaInfo = s.jaInfo ∧ t.jaCflist = s.jaCflist := by
  simp only [State.hostReadOnly, Prod.mk.injEq]

theorem busWrite_hostReadOnly (off : Nat) (v : Word) (s : State) :
    (busWrite off v s).hostReadOnly = s.hostReadOnly := by
  rcases busWrite_cases off v s with h | h <;> rw [h]
  · rfl
  · cases (locate off).1 <;> rfl

theorem busRead_hostReadOnly (off : Nat) (s : State) :
    (busRead off s).2.hostReadOnly = s.hostReadOnly := by
  rcases busRead_cases off s with ⟨h, -⟩ | ⟨h, -⟩ <;> rw [h]
  rfl

theorem busAccess_hostReadOnly {p : BusCycle} {s s' : State} (h : busAccess p s = .ok s') :
    s'.hostReadOnly = s.hostReadOnly := by
  rcases busAccess_ok h with ⟨-, rfl⟩ | ⟨-, -, -, rfl⟩ | ⟨-, -, -, rfl⟩
  · rfl
  · exact busWrite_hostReadOnly p.addr.toNat p.wdata s
  · exact busRead_hostReadOnly p.addr.toNat s

/-! ### The form of the memory -/

theorem writeReg_mem_wf {v : Word} {s : State} {r : Reg} {i : Nat} (hi : i < r.words)
    (h : s.mem.wf = true) : (writeReg v s r i).mem.wf = true := by
  cases r
  case ibuf =>
    have hi : i < 64 := hi
    refine writeBytes_wf ?_ ?_ h
    · simp only [ibufBase]
      omega
    · simp only [le_length, ibufBase, obufBase, bufSize]
      omega
  all_goals exact h

theorem busWrite_mem_wf {off : Nat} {v : Word} {s : State} (hoff : off < 1024)
    (halign : off % 4 = 0) (h : s.mem.wf = true) : (busWrite off v s).mem.wf = true := by
  rcases busWrite_cases off v s with hw | hw <;> rw [hw]
  · exact h
  · by_cases hres : (locate off).1 = .reserved
    · rw [hres]
      exact h
    · exact writeReg_mem_wf (locate_spec off hoff halign hres).2 h

theorem busAccess_mem_wf {p : BusCycle} {s s' : State} (hs : s.mem.wf = true)
    (h : busAccess p s = .ok s') : s'.mem.wf = true := by
  rcases busAccess_ok h with ⟨-, rfl⟩ | ⟨-, hword, -, rfl⟩ | ⟨-, -, -, rfl⟩
  · exact hs
  · exact busWrite_mem_wf p.addr.isLt ((wordAccess_iff p).mp hword).2 hs
  · rcases busRead_cases p.addr.toNat s with ⟨hread, -⟩ | ⟨hread, -⟩ <;> rw [hread] <;> exact hs

theorem exec_mem_wf {i : Instr} {s t : State} (hs : s.mem.wf = true) (h : exec i s = .next t) :
    t.mem.wf = true := by
  obtain ⟨b, hb, -, h255, -⟩ := exec_storesObuf h
  rw [hb]
  refine writeBytes_wf (by decide) ?_ hs
  simp only [obufBase, bufSize]
  omega

theorem step_mem_wf {s t : State} (hs : s.mem.wf = true) (h : step s = .next t) : t.mem.wf = true :=
  step_keeps (P := fun u => u.mem.wf = true) rfl
    (fun _ ha => busAccess_mem_wf (s := advanceHost s) hs ha) (fun _ _ hu => hu) (fun _ hu => hu)
    (fun _ _ _ hu he => exec_mem_wf hu he) h

/-! ### The result code -/

theorem exec_resultLegal {i : Instr} {s t : State} (h : exec i s = .next t) : ResultLegal t := by
  obtain ⟨code, u, hexec, -⟩ := exec_completes i s
  cases hexec.symm.trans h
  exact resultLegal_complete code u

theorem step_resultLegal {s t : State} (hs : ResultLegal s) (h : step s = .next t) :
    ResultLegal t := by
  refine step_keeps (.inl rfl) (fun s' ha => ?_) (fun _ _ hu => hu)
    (fun u _ => resultLegal_complete .cmdError u) (fun _ _ _ _ he => exec_resultLegal he) h
  obtain ⟨hresult, -⟩ := hostReadOnly_eq_iff.mp (busAccess_hostReadOnly ha)
  unfold ResultLegal
  rw [hresult]
  exact hs

/-! ### The session -/

theorem sessionOk_congr {s t : State} (hs : SessionOk s) (hsession : t.session = s.session)
    (hcfg : t.cfg = s.cfg) : SessionOk t := by
  obtain ⟨hfmt, hvalid, hnetid, hdevaddr, hnwkskey, happskey⟩ := session_eq_iff.mp hsession
  unfold SessionOk
  rw [hfmt, hvalid, hnetid, hdevaddr, hnwkskey, happskey, hcfg]
  exact hs

theorem exec_sessionOk {i : Instr} {s t : State} (hs : SessionOk s) (h : exec i s = .next t) :
    SessionOk t := by
  by_cases hload : i = .sessionLoad
  · subst hload
    cases hmaxpl : maxplOf s.cfg s.stgFmt with
    | none =>
      cases (exec_sessionLoad_of_unsupported hmaxpl).symm.trans h
      exact hs
    | some m =>
      cases (exec_sessionLoad_of_supported hmaxpl).symm.trans h
      exact ⟨fun _ => ⟨m, hmaxpl⟩, nofun⟩
  by_cases hclear : i = .sessionClear
  · subst hclear
    cases (exec_sessionClear s).symm.trans h
    exact ⟨nofun, fun _ => ⟨rfl, rfl, rfl, rfl, rfl⟩⟩
  · exact sessionOk_congr hs (exec_session hload hclear h) (exec_cfg h)

theorem step_sessionOk {s t : State} (hs : SessionOk s) (h : step s = .next t) : SessionOk t := by
  refine step_keeps ⟨nofun, fun _ => ⟨rfl, rfl, rfl, rfl, rfl⟩⟩ (fun s' ha => ?_) (fun _ _ hu => hu)
    (fun _ hu => hu) (fun _ _ _ hu he => exec_sessionOk hu he) h
  obtain ⟨-, hcfg, -⟩ := hostReadOnly_eq_iff.mp (busAccess_hostReadOnly ha)
  exact sessionOk_congr hs (busAccess_session (s := advanceHost s) ha) hcfg

/-! ### The answer of a join -/

theorem joinOk_congr {s t : State} (hs : JoinOk s) (hinfo : t.jaInfo = s.jaInfo)
    (hcflist : t.jaCflist = s.jaCflist) : JoinOk t := by
  unfold JoinOk
  rw [hinfo, hcflist]
  exact hs

theorem joinOk_reset : JoinOk State.reset := ⟨by decide, fun _ => rfl⟩

/-- JA_INFO is built from the fields that it shows. -/
theorem joinInfo_joinInfo (dl rx : Byte) (cf : Bool) :
    joinInfo dl rx cf = joinInfo ((joinInfo dl rx cf).extractLsb' 0 8)
      ((joinInfo dl rx cf).extractLsb' 8 8) ((joinInfo dl rx cf).getLsbD 16) := by
  obtain ⟨hdl, hrx, hcf, -⟩ := joinInfo_fields dl rx cf
  rw [hdl, hrx, hcf]

theorem joinOk_joinOutputs (n : Nat) (p : List Byte) (s : State) : JoinOk (joinOutputs n p s) := by
  obtain ⟨-, -, hcf, -⟩ := joinInfo_fields (byteAt p 11) (byteAt p 12) (decide (n = 33))
  refine ⟨joinInfo_joinInfo _ _ _, fun hnone => if_neg ?_⟩
  rw [← hcf, Bool.not_eq_true]
  exact hnone

/-- Every command but JOIN_ACCEPT keeps the answer of the last join. -/
theorem exec_ja {i : Instr} {s t : State} (hi : i ≠ .joinAccept) (h : exec i s = .next t) :
    t.jaInfo = s.jaInfo ∧ t.jaCflist = s.jaCflist := by
  suffices hkeep : ∃ u, exec i s = .next u ∧ (u.jaInfo, u.jaCflist) = (s.jaInfo, s.jaCflist) by
    obtain ⟨u, hu, hja⟩ := hkeep
    cases hu.symm.trans h
    exact Prod.mk.inj hja
  cases i with
  | aesEnc | aesDec | joinReq | sessionClear | getDirection | ackRequest => exact ⟨_, rfl, rfl⟩
  | mask | cmac | dataMic | maxPayload | getAddress | getHeader | sessionLoad =>
    exact ⟨_, rfl, by split <;> rfl⟩
  | compose =>
    refine ⟨_, rfl, ?_⟩
    repeat' split
    all_goals rfl
  | decode =>
    refine ⟨_, rfl, ?_⟩
    split
    · rfl
    · split
      · rfl
      · dsimp only
        split <;> rfl
  | joinAccept => exact absurd rfl hi

theorem exec_joinOk {i : Instr} {s t : State} (hs : JoinOk s) (h : exec i s = .next t) :
    JoinOk t := by
  by_cases hi : i = .joinAccept
  · subst hi
    by_cases hr : t.result = 0
    · obtain ⟨-, -, rfl⟩ := joinAccept_ok h hr
      exact joinOk_joinOutputs _ _ s
    · rw [exec_error h hr]
      exact hs
  · obtain ⟨hinfo, hcflist⟩ := exec_ja hi h
    exact joinOk_congr hs hinfo hcflist

theorem step_joinOk {s t : State} (hs : JoinOk s) (h : step s = .next t) : JoinOk t := by
  refine step_keeps (joinOk_congr joinOk_reset rfl rfl) (fun s' ha => ?_) (fun _ _ hu => hu)
    (fun _ hu => hu) (fun _ _ _ hu he => exec_joinOk hu he) h
  obtain ⟨-, -, hinfo, hcflist⟩ := hostReadOnly_eq_iff.mp (busAccess_hostReadOnly ha)
  exact joinOk_congr hs hinfo hcflist

/-! ### The engine -/

/-- A write while no command runs starts one, or leaves the engine as it was. -/
theorem busWrite_engineOk {off : Nat} {v : Word} {s : State} (hidle : s.busy = false)
    (hs : EngineOk s) : EngineOk (busWrite off v s) := by
  rw [busWrite_idle off v s hidle]
  have hkept {u : State} (hbusy : u.busy = s.busy) (hremaining : u.remaining = s.remaining) :
      EngineOk u := by
    refine ⟨fun hrunning => ?_, fun _ => hremaining.trans (hs.2 hidle)⟩
    rw [hbusy, hidle] at hrunning
    cases hrunning
  cases (locate off).1
  case cmd => exact ⟨fun _ => ⟨rfl, nextLatency_pos s⟩, nofun⟩
  all_goals exact hkept rfl rfl

theorem busAccess_engineOk {p : BusCycle} {s s' : State} (hidle : s.busy = false) (hs : EngineOk s)
    (h : busAccess p s = .ok s') : EngineOk s' := by
  rcases busAccess_ok h with ⟨-, rfl⟩ | ⟨-, -, -, rfl⟩ | ⟨-, -, -, rfl⟩
  · exact hs
  · exact busWrite_engineOk (off := p.addr.toNat) (v := p.wdata) hidle hs
  · rw [busRead_idle _ s hidle]
    exact hs

theorem step_engineOk {s t : State} (hs : EngineOk s) (h : step s = .next t) : EngineOk t := by
  rcases step_cases h with ⟨-, rfl⟩ | ⟨-, s', haccess, hcycle⟩
  · exact ⟨nofun, fun _ => rfl⟩
  rcases hcycle with ⟨hidle, rfl⟩ | ⟨hbusy, hmore, rfl⟩ | ⟨-, -, -, rfl⟩ | ⟨-, -, i, -, hexec⟩
  · exact busAccess_engineOk (s := advanceHost s) hidle hs haccess
  · obtain ⟨hs', hdone⟩ := busAccess_busy (s := advanceHost s) hbusy haccess
    obtain ⟨-, hremaining⟩ := pending_remaining_of_busAccess hbusy haccess
    have hbusy' : s'.busy = true := by
      rw [hs']
      exact hbusy
    refine ⟨fun _ => ⟨hdone (hs.1 hbusy).1, ?_⟩, fun hidle => ?_⟩
    · show 1 ≤ s'.remaining - 1
      omega
    · rw [show s'.busy = false from hidle] at hbusy'
      cases hbusy'
  · exact ⟨nofun, fun _ => rfl⟩
  · obtain ⟨code, u, hcompletes, hinputs, -⟩ := exec_completes i { s' with remaining := 0 }
    cases hcompletes.symm.trans hexec
    exact ⟨nofun, fun _ => hinputs.remaining⟩

/-! ### The operands of a running command -/

/-- The command latched, the operand registers and the parameters that no cycle of a running command
changes (10_state R43, R48). -/
structure Operands where
  pending : Word
  args : Word × Word × Word
  blocks : Block × Block
  stgFmt : BitVec 8
  join : BitVec 64 × BitVec 64 × BitVec 16 × Block
  cfg : Config.Params

def State.operands (s : State) : Operands :=
  ⟨s.pending, (s.arg0, s.arg1, s.arg2), (s.key, s.blkIn), s.stgFmt,
    (s.appeui, s.deveui, s.devnonce, s.appkey), s.cfg⟩

theorem operands_eq_iff {s t : State} : t.operands = s.operands ↔
    t.pending = s.pending ∧ t.arg0 = s.arg0 ∧ t.arg1 = s.arg1 ∧ t.arg2 = s.arg2 ∧ t.key = s.key ∧
    t.blkIn = s.blkIn ∧ t.stgFmt = s.stgFmt ∧ t.appeui = s.appeui ∧ t.deveui = s.deveui ∧
    t.devnonce = s.devnonce ∧ t.appkey = s.appkey ∧ t.cfg = s.cfg := by
  simp only [State.operands, Operands.mk.injEq, Prod.mk.injEq, and_assoc]

theorem SameInputs.operands {s u : State} (h : SameInputs s u) : u.operands = s.operands := by
  rw [h]
  rfl

theorem exec_operands {i : Instr} {s t : State} (h : exec i s = .next t) :
    t.operands = s.operands := by
  obtain ⟨u, hinputs, ht⟩ := exec_sameInputs h
  rw [ht]
  exact hinputs.operands

/-! ### The obligations -/

/-- Settles O51: the invariant part by part. -/
theorem stepKeepsTheInvariant : Obligations.StepKeepsTheInvariant := by
  rintro s t ⟨hmem, hresult, hengine, hsession, hjoin⟩ h
  exact ⟨step_mem_wf hmem h, step_resultLegal hresult h, step_engineOk hengine h,
    step_sessionOk hsession h, step_joinOk hjoin h⟩

/-- Settles O52: the reset state is idle, without a session, and has never joined. -/
theorem resetHasTheInvariant : Obligations.ResetHasTheInvariant :=
  ⟨reset_mem_wf, .inl rfl, ⟨nofun, fun _ => rfl⟩, ⟨nofun, fun _ => ⟨rfl, rfl, rfl, rfl, rfl⟩⟩,
    joinOk_reset⟩

/-- Settles O53: every command is a completion step with a code other than CMD_ERROR. -/
theorem everyCommandCompletes : Obligations.EveryCommandCompletes := by
  intro i s
  obtain ⟨code, u, hexec, hinputs, -, hcode⟩ := exec_completes i s
  exact ⟨_, hexec, rfl, rfl, resultLegal_complete code u, resultBits_ne_cmdError hcode,
    hinputs.doneIe, hinputs.werr, hinputs.pending⟩

/-- Settles O54: an error completes the state before the command. -/
theorem failedCommandsChangeOnlyStatus : Obligations.FailedCommandsChangeOnlyStatus := by
  intro i s t h hr
  rw [exec_error h hr]
  rfl

/-- Settles O56: every command writes at most one string, from OBUF[0] on, of the length it
states. -/
theorem commandsWriteOnlyTheirObufPrefix : Obligations.CommandsWriteOnlyTheirObufPrefix := by
  intro i s t h
  obtain ⟨b, hb, hstated, -, herror⟩ := exec_storesObuf h
  refine ⟨fun hcompose hdecode hreq haccept => exec_mem h ?_, herror, ?_, fun a hne => ?_⟩
  · cases i <;> first | rfl | contradiction
  · split
    case isFalse => exact Nat.le_refl _
    case isTrue hr =>
      obtain ⟨b', -, hlength, h255⟩ := exec_ok_storesObuf h hr
      exact hlength ▸ h255
  · rw [hb.byteOf (exec_fill h)] at hne
    by_cases hin : obufBase ≤ a ∧ a < obufBase + b.length
    · simp only [obufBase] at hin
      omega
    · rw [if_neg hin] at hne
      exact absurd rfl hne

/-- Settles O57: with the other buffers the command makes the same registers and writes the same
string. -/
theorem onlyNamedIbufBytesMatter : Obligations.OnlyNamedIbufBytesMatter := by
  intro i s t m hdiffer h
  obtain ⟨t', b, ht', hb, hexec⟩ := exec_sameEffect (m := m) (s := s) i fun a _ hread => by
    by_contra hne
    exact absurd (hdiffer a hne).1 (by omega)
  cases ht'.symm.trans h
  refine ⟨_, hexec, rfl, fun a hne => hdiffer a fun heq => hne ?_⟩
  have hm : StoresObuf b (withMem m s) (withMem (m.writeBytes obufBase b) t) := rfl
  have hfill : t.fill = s.fill := exec_fill h
  rw [hm.byteOf hfill, hb.byteOf hfill]
  split
  · rfl
  · exact heq

/-- Settles O58: the access of a cycle with a command running changes flags only, and a command
writes neither its inputs nor IBUF. -/
theorem operandsAreStableWhileBusy : Obligations.OperandsAreStableWhileBusy := by
  intro s t hbusy hrst hstep
  suffices hkept : t.operands = s.operands ∧
      (∀ a, 0x100 ≤ a → a ≤ 0x1FF → byteOf t a = byteOf s a) ∧
      (t.busy = true → t.stgNetid = s.stgNetid ∧ t.stgDevaddr = s.stgDevaddr ∧
        t.stgNwkskey = s.stgNwkskey ∧ t.stgAppskey = s.stgAppskey) by
    obtain ⟨hoperands, hrest⟩ := hkept
    obtain ⟨h1, h2, h3, h4, h5, h6, h7, h8, h9, h10, h11, h12⟩ := operands_eq_iff.mp hoperands
    exact ⟨h1, h2, h3, h4, h5, h6, h7, h8, h9, h10, h11, h12, hrest⟩
  rcases step_cases hstep with ⟨hreset, -⟩ | ⟨-, s', haccess, hcycle⟩
  · rw [hrst] at hreset
    cases hreset
  obtain ⟨hs', -⟩ := busAccess_busy (s := advanceHost s) hbusy haccess
  have hoperands : s'.operands = s.operands := by
    rw [hs']
    rfl
  have hbyte (a : Nat) : byteOf s' a = byteOf s a := by
    rw [hs']
    rfl
  rcases hcycle with ⟨hidle, -⟩ | ⟨-, -, rfl⟩ | ⟨-, -, -, rfl⟩ | ⟨-, -, i, -, hexec⟩
  · rw [hbusy] at hidle
    cases hidle
  · refine ⟨hoperands, fun a _ _ => hbyte a, fun _ => ?_⟩
    rw [hs']
    exact ⟨rfl, rfl, rfl, rfl⟩
  · exact ⟨hoperands, fun a _ _ => hbyte a, nofun⟩
  · refine ⟨(exec_operands hexec).trans hoperands,
      fun a _ ha => (exec_byteOf_ibuf hexec ha).trans (hbyte a), fun hrunning => ?_⟩
    obtain ⟨code, u, hcompletes, -⟩ := exec_completes i { s' with remaining := 0 }
    cases hcompletes.symm.trans hexec
    cases hrunning

end Sys2Proof.Machine
